-- ==== Sys2Proof/Word.lean ====
section
/-! DEFINITION. The value widths of the configuration engine (00_scope.md R14) and their plainest arithmetic. -/

namespace Sys2Proof

/-- Opcodes, SPI bytes and boundary-scan bytes are 8 bits (R14). -/
abbrev Byte := BitVec 8

/-- Identities, status words, page addresses, durations in microseconds are 32 bits (R14). -/
abbrev Word := BitVec 32

/-- A text (file type, header name, header value) as its ASCII bytes (log 16). -/
abbrev Text := List Byte

end Sys2Proof
end

