-- ==== Sys2Proof/Syntax.lean ====
section
/-! DEFINITION. The instructions: one constructor for each row of spec/opcode_table.json (30_encoding.md R114, R131). -/

namespace Sys2Proof

/-- The three ports at which an instruction reaches the machine (R100): the command channel (the instruction register),
the host's requests, and the SPI requests of the external flash algorithm. -/
inductive Port where
  | command | host | spi
  deriving DecidableEq, Repr

/-- The 17 commands, by name (R114). Their IR values are parameters (R13, `OpCodes` in Config.lean). -/
inductive Cmd where
  | noop | eraseSram | finalize2 | xferDone | finalize1 | readIdcode | initAddr | readUsercode | enable
  | spiPassthrough | xferWrite | disable | reload | extFinal | readStatus | flashProgram | flashErase
  deriving DecidableEq, Repr

/-- The commands in the order of the table of R114. -/
def Cmd.all : List Cmd :=
  [.noop, .eraseSram, .finalize2, .xferDone, .finalize1, .readIdcode, .initAddr, .readUsercode, .enable,
   .spiPassthrough, .xferWrite, .disable, .reload, .extFinal, .readStatus, .flashProgram, .flashErase]

/-- The 17 commands, the 4 host requests and the 2 SPI requests, with the operands the spec gives each. -/
inductive Instr where
  | opNoop | opEraseSram | opFinalize2 | opXferDone | opFinalize1 | opReadIdcode | opInitAddr | opReadUsercode
  | opEnable | opSpiPassthrough | opXferWrite | opDisable | opReload | opExtFinal | opReadStatus | opFlashProgram
  | opFlashErase
  /-- program(offset, unprotect_flash_flag) (R340). -/
  | program (offset : Word) (unprotect : Bool)
  /-- reset() (R345). -/
  | reset
  /-- read_id_code() (R346). -/
  | readIdCode
  /-- read_status_register() (R347). -/
  | readStatusRegister
  /-- transfer(command, write_bytes?, read_length?) (R312). -/
  | transfer (command : Byte) (writeBytes : Option (List Byte)) (readLength : Option Word)
  /-- wait_until(command, mask, expected_value, timeout, verbose) (R330). -/
  | waitUntil (command mask expected : Byte) (bound : Word) (verbose : Bool)
  deriving DecidableEq, Repr

/-- The instruction of a command. -/
def Cmd.instr : Cmd → Instr
  | .noop => .opNoop
  | .eraseSram => .opEraseSram
  | .finalize2 => .opFinalize2
  | .xferDone => .opXferDone
  | .finalize1 => .opFinalize1
  | .readIdcode => .opReadIdcode
  | .initAddr => .opInitAddr
  | .readUsercode => .opReadUsercode
  | .enable => .opEnable
  | .spiPassthrough => .opSpiPassthrough
  | .xferWrite => .opXferWrite
  | .disable => .opDisable
  | .reload => .opReload
  | .extFinal => .opExtFinal
  | .readStatus => .opReadStatus
  | .flashProgram => .opFlashProgram
  | .flashErase => .opFlashErase

/-- The port an instruction comes by (R100, R131). -/
def Instr.port : Instr → Port
  | .opNoop | .opEraseSram | .opFinalize2 | .opXferDone | .opFinalize1 | .opReadIdcode | .opInitAddr
  | .opReadUsercode | .opEnable | .opSpiPassthrough | .opXferWrite | .opDisable | .opReload | .opExtFinal
  | .opReadStatus | .opFlashProgram | .opFlashErase => .command
  | .program _ _ | .reset | .readIdCode | .readStatusRegister => .host
  | .transfer _ _ _ | .waitUntil _ _ _ _ _ => .spi

end Sys2Proof
end

