-- ==== Sys2Proof/Config.lean ====
section
/-! DEFINITION. What an implementation of the configuration engine fixes: the OPEN parameters of 00_scope.md R13 as one
record of plain data, and the free values (opaque constants: nothing can prove what they are). The numbers that the spec
itself fixes (R12) stand in Machine/Literals.lean. -/

namespace Sys2Proof

/-- The sixteen TAP states (R23). -/
inductive TapState where
  | testLogicReset | runTestIdle | selectDR | captureDR | shiftDR | exit1DR | pauseDR | exit2DR
  | updateDR | selectIR | captureIR | shiftIR | exit1IR | pauseIR | exit2IR | updateIR
  deriving DecidableEq, Repr, Inhabited

/-- The programming mode (R31, R36). UNSET is the absence of one: `none` in an `Option ProgMode`. -/
inductive ProgMode where
  | volatile | nonVolatile
  deriving DecidableEq, Repr, Inhabited

/-- A pin mapping: five bit positions of a boundary-scan byte (R51). -/
structure PinMap where
  sck : Fin 8
  cs  : Fin 8
  di  : Fin 8
  dout : Fin 8
  msk : Fin 8
  deriving DecidableEq, Repr, Inhabited

/-- The five positions of a pin mapping are distinct (R51). -/
def PinMap.distinct (p : PinMap) : Bool := decide ([p.sck, p.cs, p.di, p.dout, p.msk].Nodup)

/-- The two SPI encodings (R205, R311). -/
inductive SpiEncoding where
  | encA | encB
  deriving DecidableEq, Repr, Inhabited

/-- The two exit sequences of the external-flash path (R206, R292). -/
inductive ExtExit where
  | finalOpcode | disableNoop
  deriving DecidableEq, Repr, Inhabited

/-- What one row of VARIANT_TABLE selects (R50, R52). The pin map, the firmware permission and the flash-write support of
a descriptor are computed from these and from the other parameters (R200, R207, R208). The two family numbers serve only
the counts of R52, which speaks of families (log 17). -/
structure VariantRow where
  extendedErase : Bool
  legacyPins : Bool
  checksumKnown : Bool
  extFlashForced : Bool
  spiEncoding : SpiEncoding
  extExit : ExtExit
  /-- The chip family of the identity, as R52 counts families for the external flash and the SPI encoding. -/
  family : Nat
  /-- The chip family of the identity, as R52 counts families for the exit sequence (90_conflicts.md C17). -/
  exitFamily : Nat
  deriving DecidableEq, Repr, Inhabited

/-- The IR values of the commands (R13: parameters, D1), but OP_EXT_FINAL's, which the source fixes (R12). -/
structure OpCodes where
  noop : Byte
  eraseSram : Byte
  finalize2 : Byte
  xferDone : Byte
  finalize1 : Byte
  readIdcode : Byte
  initAddr : Byte
  readUsercode : Byte
  enable : Byte
  spiPassthrough : Byte
  xferWrite : Byte
  disable : Byte
  reload : Byte
  readStatus : Byte
  flashProgram : Byte
  flashErase : Byte
  deriving DecidableEq, Repr, Inhabited

/-- The IR value of a command (R114); OP_EXT_FINAL is 0x3D (R12, R193). -/
def OpCodes.code (o : OpCodes) : Cmd → Byte
  | .noop => o.noop
  | .eraseSram => o.eraseSram
  | .finalize2 => o.finalize2
  | .xferDone => o.xferDone
  | .finalize1 => o.finalize1
  | .readIdcode => o.readIdcode
  | .initAddr => o.initAddr
  | .readUsercode => o.readUsercode
  | .enable => o.enable
  | .spiPassthrough => o.spiPassthrough
  | .xferWrite => o.xferWrite
  | .disable => o.disable
  | .reload => o.reload
  | .extFinal => 0x3D
  | .readStatus => o.readStatus
  | .flashProgram => o.flashProgram
  | .flashErase => o.flashErase

/-- No two commands have one IR value. The defaults are so; no rule of the engine relies on it (R114). -/
def OpCodes.distinct (o : OpCodes) : Bool := decide (Cmd.all.map o.code).Nodup

/-- The default IR values of R114, those of the opcode table (PRESUMED: general knowledge, GK1, GK7, log 1). Only the
reading of a bare table word uses them, and the test set TP. -/
def OpCodes.table : OpCodes where
  noop := 0x02
  eraseSram := 0x05
  finalize2 := 0x08
  xferDone := 0x09
  finalize1 := 0x0A
  readIdcode := 0x11
  initAddr := 0x12
  readUsercode := 0x13
  enable := 0x15
  spiPassthrough := 0x16
  xferWrite := 0x17
  disable := 0x3A
  reload := 0x3C
  readStatus := 0x41
  flashProgram := 0x71
  flashErase := 0x75

/-- The four bytes of AUTOBOOT_SIG (R13, R263). -/
structure Signature where
  b0 : Byte
  b1 : Byte
  b2 : Byte
  b3 : Byte
  deriving DecidableEq, Repr, Inhabited

/-- The OPEN parameters of R13. A model's parameters are its arguments: State carries one such record and no step changes
it (log 4). -/
structure Params where
  /-- OP_NOOP to OP_SPI_PASSTHROUGH (R13, D1). -/
  op : OpCodes
  /-- VARIANT_TABLE as a list of rows, the first match counting; an identity without a row gets the default (R52). -/
  variantTable : List (Word × VariantRow)
  /-- MCU_FW_DEVICE (R207). -/
  mcuFwDevice : Word
  /-- The identities for which FLASH_WRITE_SUPPORTED is 0 (R208). -/
  noFlashWrite : List Word
  /-- PINMAP_DEFAULT (R51). -/
  pinmapDefault : PinMap
  /-- PINMAP_SWAPPED (R51). -/
  pinmapSwapped : PinMap
  /-- AUTOBOOT_SIG (R263). -/
  autobootSig : Signature
  /-- POLL_MAX, at least 1 (R177). -/
  pollMax : Word
  /-- CHUNK_BYTES, at least 1 (R234). -/
  chunkBytes : Nat
  /-- ERASE_HOLD_STATE (R252). -/
  eraseHoldState : TapState
  /-- T_PAGE_GAP_US (R265). -/
  tPageGap : Word
  /-- T_ADDR_US (R265). -/
  tAddr : Word
  /-- T_WORD_US (R265). -/
  tWord : Word
  /-- T_WORD_LONG_US, longer than T_WORD_US (R265). -/
  tWordLong : Word
  /-- T_PAGE_TRAIL_US, longer than T_WORD_US (R265). -/
  tPageTrail : Word
  /-- HEADER_CHECKSUM_KEY (R278). -/
  headerChecksumKey : Text
  /-- ENC_B_STATE (R322). -/
  encBState : TapState
  /-- ENC_B_EXTRA_BITS, at least 1 (R322). -/
  encBExtraBits : Nat
  /-- VERIFY_CHUNK, the external algorithm's own (D36); no rule of the engine reads it. -/
  verifyChunk : Nat
  /-- What FILETYPE_OK(file type, MODE, EXT_SEL) answers for the combinations listed, the first match counting; it is
  `Config.fileTypeFree` for every other one (R342, log 16). -/
  fileTypeRuled : List ((Text × ProgMode × Bool) × Bool)
  /-- F_INIT, the TCK frequency before the first SetFreq, in Hz (R54). -/
  fInit : Nat
  deriving DecidableEq, Repr, Inhabited

/-- The number of different families among the rows that a property picks. -/
def familyCount (table : List (Word × VariantRow)) (family : VariantRow → Nat) (pick : VariantRow → Bool) : Nat :=
  ((table.filter fun r => pick r.2).map fun r => family r.2).dedup.length

/-- The identities that a read gives when no device answers (R200). -/
def noDeviceIds : List Word := [0x00000000, 0xFFFFFFFF]

/-- The shape of VARIANT_TABLE that R52 and R200 fix (log 17): no row for an identity of no device, so that it resolves like
any unknown one; one row for an identity; exactly one identity with swapped pins; the rows
with the external flash forced are those with the checksum algorithm unknown (R203), and belong to two families; the rows
with Encoding B belong to one family, and the rows with the exit DISABLE_NOOP to one. -/
def shapeOk (table : List (Word × VariantRow)) : Bool :=
  table.all (fun r => !noDeviceIds.contains r.1)
    && decide (table.map (·.1)).Nodup
    && (table.filter fun r => r.2.legacyPins).length == 1
    && table.all (fun r => r.2.extFlashForced == !r.2.checksumKnown)
    && familyCount table VariantRow.family (·.extFlashForced) == 2
    && familyCount table VariantRow.family (fun r => r.spiEncoding == .encB) == 1
    && familyCount table VariantRow.exitFamily (fun r => r.extExit == .disableNoop) == 1

/-- The constraints that the spec puts on the parameters: distinct pin positions (R51), POLL_MAX ≥ 1 (R177), CHUNK_BYTES
≥ 1 (D26), ENC_B_EXTRA_BITS ≥ 1 (R322), the two orders of the settle delays (R265), the shape of the variant table (R52, R200),
rows of the table for the firmware device and the identities without flash writes (R52: an identity without a row gets
mcu_firmware_allowed = 0 and flash_write_supported = 1). -/
def Params.wf (p : Params) : Bool :=
  p.pinmapDefault.distinct && p.pinmapSwapped.distinct
    && decide (0 < p.pollMax.toNat) && decide (0 < p.chunkBytes) && decide (0 < p.encBExtraBits)
    && decide (p.tWord.toNat < p.tWordLong.toNat) && decide (p.tWord.toNat < p.tPageTrail.toNat)
    && shapeOk p.variantTable
    && (p.variantTable.map (·.1)).contains p.mcuFwDevice
    && p.noFlashWrite.all (fun i => (p.variantTable.map (·.1)).contains i)

/-- One choice of the parameters that meets `Params.wf`; it serves only to make `Config.params` meet it whatever
`Config.rawParams` is. It is the test set TP of 95_test_vectors.md with its made-up values. -/
def Params.sample : Params where
  op := OpCodes.table
  variantTable :=
    [(0x0900281B, ⟨true, false, true, false, .encA, .finalOpcode, 0, 0⟩),
     (0x0100981B, ⟨false, true, true, false, .encA, .finalOpcode, 1, 1⟩),
     (0x0000081B, ⟨false, false, false, true, .encA, .disableNoop, 2, 2⟩),
     (0x0000281B, ⟨false, false, false, true, .encA, .disableNoop, 3, 2⟩),
     (0x0000001B, ⟨false, false, true, false, .encB, .finalOpcode, 4, 4⟩)]
  mcuFwDevice := 0x0100981B
  noFlashWrite := [0x0000001B]
  pinmapDefault := ⟨1, 3, 5, 7, 6⟩
  pinmapSwapped := ⟨7, 5, 3, 1, 0⟩
  autobootSig := ⟨0x47, 0x57, 0x31, 0x4E⟩
  pollMax := 3
  chunkBytes := 4
  eraseHoldState := .shiftDR
  tPageGap := 16
  tAddr := 16
  tWord := 16
  tWordLong := 32
  tPageTrail := 64
  headerChecksumKey := [0x43, 0x48, 0x45, 0x43, 0x4B, 0x53, 0x55, 0x4D]
  encBState := .pauseDR
  encBExtraBits := 1
  verifyChunk := 256
  fileTypeRuled := []
  fInit := 6000000

/-- The parameters of an implementation: a free value, nothing is known of it (log 4). -/
opaque Config.rawParams : Params

/-- The parameters at reset: any that meet the spec's constraints on them (log 4). -/
def Config.params : Params := if Config.rawParams.wf then Config.rawParams else Params.sample

/-- Free value: byte `k` of the answer to the `n`-th capture, where no script gives it (R10: a draw, log 5). -/
opaque Config.tdo (n k : Nat) : Byte

/-- Free value: whether, with `issued` operations issued and `performed` of the queued ones performed, the transport performs the
next one before the engine moves (R53 lets it perform its queue at any time, log 6). -/
opaque Config.xportMoves (issued performed : Nat) : Bool

/-- Free value: FILETYPE_OK for a combination that the parameters do not list (R342, log 16). -/
opaque Config.fileTypeFree (fileType : Text) (mode : ProgMode) (extSel : Bool) : Bool

/-- Free value: the TAP state that `n` cycles of Toggle lead to from a state other than the five that R170 calls
stable (log 10). -/
opaque Config.toggleFrom (t : TapState) (n : Nat) : TapState

/-- Free value: the TAP state at construction, before the identity read (R54, U12, log 11). -/
opaque Config.initialTap : TapState

/-- Free value: the content of the device's instruction register before the first command (log 11). -/
opaque Config.initialIr : Byte

end Sys2Proof
end

