-- ==== Sys2Proof/Machine/Bytes.lean ====
section
/-! DEFINITION. Byte order and bit order: how words become bytes on the wire and back (20_memory.md R77 to R84). -/

namespace Sys2Proof.Machine

/-- The four bytes of a word, least significant first (R79). -/
def leBytes (w : Word) : List Byte :=
  [w.extractLsb' 0 8, w.extractLsb' 8 8, w.extractLsb' 16 8, w.extractLsb' 24 8]

/-- The word of four bytes, the first one least significant: `in[0] | in[1] << 8 | in[2] << 16 | in[3] << 24` (R77). -/
def leWord (b0 b1 b2 b3 : Byte) : Word := b3 ++ b2 ++ b1 ++ b0

/-- The word of a captured byte list, by R77; a missing byte is 0. -/
def leWordOf (bs : List Byte) : Word :=
  leWord (bs.getD 0 0) (bs.getD 1 0) (bs.getD 2 0) (bs.getD 3 0)

/-- Bit `i` of a byte. -/
def bitOf (b : Byte) (i : Nat) : Bool := b.getLsbD i

/-- A byte with bit `i` made `v`. -/
def setBitOf (b : Byte) (i : Nat) (v : Bool) : Byte :=
  if v then b ||| ((1 : Byte) <<< i) else b &&& ~~~((1 : Byte) <<< i)

/-- `rev(b)`: bit i goes to bit 7-i (R107). -/
def revByte (b : Byte) : Byte :=
  b.extractLsb' 0 1 ++ b.extractLsb' 1 1 ++ b.extractLsb' 2 1 ++ b.extractLsb' 3 1
    ++ b.extractLsb' 4 1 ++ b.extractLsb' 5 1 ++ b.extractLsb' 6 1 ++ b.extractLsb' 7 1

/-- The ceiling of a / b, for b at least 1. -/
def ceilDiv (a b : Nat) : Nat := (a + b - 1) / b

/-- Bytes `lo ..` of a shift of `n` bits hold only bits below `n`: byte `k` of it, the bits beyond made 0 (R113). -/
def maskByte (n k : Nat) (b : Byte) : Byte :=
  if 8 * k + 8 ≤ n then b else b &&& BitVec.ofNat 8 (2 ^ (n - 8 * k) - 1)

end Sys2Proof.Machine
end

