-- ==== Sys2Proof/WellFormed.lean ====
section
/-! DEFINITION. Which instructions are well formed: those whose operands the model's layout of a request can carry. -/

namespace Sys2Proof

/-- A transfer's write bytes are counted by 32 bits in the model's layout of the request (log 3). Every other operand is
carried at every value of its type. -/
def Instr.wf : Instr → Bool
  | .transfer _ (some l) _ => decide (l.length < 2 ^ 32)
  | _ => true

end Sys2Proof
end

