-- ==== Sys2Proof/Decode.lean ====
section
/-! DEFINITION. Decoding and encoding of commands and requests (30_encoding.md R101, R114, R116, R131). A command is one
IR byte, whose value is a parameter (R13); a request is its code and its operands in the model's own layout (log 3). -/

namespace Sys2Proof

open Machine (leBytes leWord)

/-! The request codes of R131. -/

def Req.program : Byte := 0x01
def Req.reset : Byte := 0x02
def Req.readIdCode : Byte := 0x03
def Req.readStatusRegister : Byte := 0x04
def Req.transfer : Byte := 0x10
def Req.waitUntil : Byte := 0x11

/-- Why bytes at a port are no instruction. -/
inductive DecodeError where
  /-- No byte at all. -/
  | noBytes
  /-- An IR value outside the command table (R116). -/
  | unknownCommand (b : Byte)
  /-- A code that is no host request (R351). -/
  | unknownHostRequest (b : Byte)
  /-- A code that is no SPI request (R131). -/
  | unknownSpiRequest (b : Byte)
  /-- The bytes end before the operands do. -/
  | truncated (code : Byte)
  /-- A flag byte with a value the layout does not use (log 3). -/
  | badFlag (code flag : Byte)
  deriving DecidableEq, Repr

/-- The command of an IR value: the first of R114's table that has it, and none for a value outside it (R116). -/
def decodeCommandByte (o : OpCodes) (b : Byte) : Option Cmd := Cmd.all.find? fun c => o.code c == b

/-- A command: one byte shifted into the instruction register (R101). -/
def decodeCommand (o : OpCodes) : List Byte → Except DecodeError (Instr × List Byte)
  | [] => .error .noBytes
  | b :: rest =>
    match decodeCommandByte o b with
    | some c => .ok (c.instr, rest)
    | none => .error (.unknownCommand b)

/-- A flag byte: 0 or 1 (log 3). -/
def decodeFlag (code b : Byte) : Except DecodeError Bool :=
  if b = 0 then .ok false else if b = 1 then .ok true else .error (.badFlag code b)

/-- The operands of program: offset, four bytes, least significant first, and the unprotect flag, one byte (log 3). -/
def decodeProgram : List Byte → Except DecodeError (Instr × List Byte)
  | o0 :: o1 :: o2 :: o3 :: u :: rest =>
    match decodeFlag Req.program u with
    | .ok f => .ok (.program (leWord o0 o1 o2 o3) f, rest)
    | .error e => .error e
  | _ => .error (.truncated Req.program)

/-- A host request (R131). -/
def decodeHost : List Byte → Except DecodeError (Instr × List Byte)
  | [] => .error .noBytes
  | c :: rest =>
    if c = Req.program then decodeProgram rest
    else if c = Req.reset then .ok (.reset, rest)
    else if c = Req.readIdCode then .ok (.readIdCode, rest)
    else if c = Req.readStatusRegister then .ok (.readStatusRegister, rest)
    else .error (.unknownHostRequest c)

/-- The optional write bytes of a transfer: absent for flag 0; for flag 1 their count, four bytes, least significant
first, and the bytes (log 3). -/
def decodeWriteBytes (flag : Byte) (bs : List Byte) : Except DecodeError (Option (List Byte) × List Byte) :=
  if flag = 0 then .ok (none, bs)
  else if flag = 1 then
    match bs with
    | n0 :: n1 :: n2 :: n3 :: rest =>
      let n := (leWord n0 n1 n2 n3).toNat
      if n ≤ rest.length then .ok (some (rest.take n), rest.drop n) else .error (.truncated Req.transfer)
    | _ => .error (.truncated Req.transfer)
  else .error (.badFlag Req.transfer flag)

/-- The optional read length of a transfer: absent for flag 0; for flag 1 four bytes, least significant first (log 3). -/
def decodeReadLength (flag : Byte) (bs : List Byte) : Except DecodeError (Option Word × List Byte) :=
  if flag = 0 then .ok (none, bs)
  else if flag = 1 then
    match bs with
    | n0 :: n1 :: n2 :: n3 :: rest => .ok (some (leWord n0 n1 n2 n3), rest)
    | _ => .error (.truncated Req.transfer)
  else .error (.badFlag Req.transfer flag)

/-- The operands of transfer: command byte, the flag of the write bytes, the flag of the read length, then the two
optional operands (R312, log 3). -/
def decodeTransfer : List Byte → Except DecodeError (Instr × List Byte)
  | c :: fw :: fr :: rest =>
    match decodeWriteBytes fw rest with
    | .error e => .error e
    | .ok (tx, rest1) =>
      match decodeReadLength fr rest1 with
      | .error e => .error e
      | .ok (rl, rest2) => .ok (.transfer c tx rl, rest2)
  | _ => .error (.truncated Req.transfer)

/-- The operands of wait_until: command, mask and expected byte, the bound in four bytes, least significant first, and
the verbose flag (R330, log 3). -/
def decodeWaitUntil : List Byte → Except DecodeError (Instr × List Byte)
  | c :: m :: e :: b0 :: b1 :: b2 :: b3 :: v :: rest =>
    match decodeFlag Req.waitUntil v with
    | .ok f => .ok (.waitUntil c m e (leWord b0 b1 b2 b3) f, rest)
    | .error x => .error x
  | _ => .error (.truncated Req.waitUntil)

/-- An SPI request (R131). -/
def decodeSpi : List Byte → Except DecodeError (Instr × List Byte)
  | [] => .error .noBytes
  | c :: rest =>
    if c = Req.transfer then decodeTransfer rest
    else if c = Req.waitUntil then decodeWaitUntil rest
    else .error (.unknownSpiRequest c)

/-- The decoder: the instruction that the bytes at a port begin with, and the bytes after it. -/
def decode (o : OpCodes) (p : Port) (bs : List Byte) : Except DecodeError (Instr × List Byte) :=
  match p with
  | .command => decodeCommand o bs
  | .host => decodeHost bs
  | .spi => decodeSpi bs

/-! The encoder. -/

/-- A flag as its byte. -/
def encodeFlag (f : Bool) : Byte := if f then 1 else 0

/-- The optional write bytes of a transfer, without their flag. -/
def encodeWriteBytes : Option (List Byte) → List Byte
  | none => []
  | some l => leBytes (BitVec.ofNat 32 l.length) ++ l

/-- The optional read length of a transfer, without its flag. -/
def encodeReadLength : Option Word → List Byte
  | none => []
  | some n => leBytes n

/-- The bytes of an instruction, as its port carries them (R101, R114, R131, log 3). -/
def encode (o : OpCodes) : Instr → List Byte
  | .opNoop => [o.code .noop]
  | .opEraseSram => [o.code .eraseSram]
  | .opFinalize2 => [o.code .finalize2]
  | .opXferDone => [o.code .xferDone]
  | .opFinalize1 => [o.code .finalize1]
  | .opReadIdcode => [o.code .readIdcode]
  | .opInitAddr => [o.code .initAddr]
  | .opReadUsercode => [o.code .readUsercode]
  | .opEnable => [o.code .enable]
  | .opSpiPassthrough => [o.code .spiPassthrough]
  | .opXferWrite => [o.code .xferWrite]
  | .opDisable => [o.code .disable]
  | .opReload => [o.code .reload]
  | .opExtFinal => [o.code .extFinal]
  | .opReadStatus => [o.code .readStatus]
  | .opFlashProgram => [o.code .flashProgram]
  | .opFlashErase => [o.code .flashErase]
  | .program a u => Req.program :: leBytes a ++ [encodeFlag u]
  | .reset => [Req.reset]
  | .readIdCode => [Req.readIdCode]
  | .readStatusRegister => [Req.readStatusRegister]
  | .transfer c tx rl =>
    [Req.transfer, c, encodeFlag tx.isSome, encodeFlag rl.isSome] ++ encodeWriteBytes tx ++ encodeReadLength rl
  | .waitUntil c m e b v => [Req.waitUntil, c, m, e] ++ leBytes b ++ [encodeFlag v]

/-! The opcode table's numbering. -/

/-- How many bytes the longest instruction with operands of zeros takes: wait_until's nine. -/
def longestInstr : Nat := 9

/-- The bytes of an instruction whose bits are `w`: byte k is bits 8k+7 .. 8k, and every bit from `nbits` on is 0. -/
def tableBytes (nbits w : Nat) : List Byte :=
  (List.range (max longestInstr ((nbits + 7) / 8))).map fun k => BitVec.ofNat 8 ((w % 2 ^ nbits) >>> (8 * k))

/-- Which port a table word is read at: the word does not say, and the codes 0x02 and 0x11 mean one thing as an IR value
and another as a request, so the command channel is asked first, then the host's port, then the SPI port
(DESIGN CHOICE, log 2). -/
def tablePort (bs : List Byte) : Port :=
  match decode OpCodes.table .command bs with
  | .ok _ => .command
  | .error _ =>
    match decode OpCodes.table .host bs with
    | .ok _ => .host
    | .error _ => .spi

/-- The instruction the decoder reads from a word of the opcode table, whose numbers are the default IR values (log 1). -/
def decodeTableWord (nbits w : Nat) : Option Instr :=
  match decode OpCodes.table (tablePort (tableBytes nbits w)) (tableBytes nbits w) with
  | .ok (i, _) => some i
  | .error _ => none

end Sys2Proof
end

