-- ==== Sys2Proof/Machine/Flags.lean ====
section
/-! DEFINITION. The status word's flags and the status decoder (10_state.md R43 to R45, 40_status_decoder.md). -/

namespace Sys2Proof.Machine

/-- The 19 named flags of the status word, in bit order (R43). -/
inductive Flag where
  | crcError | badCommand | idVerifyFailed | timeout | reserved4 | memErase | preamble | systemEdit | spiFlashDirect
  | reserved9 | nonJtagActive | bypass | valid | done | securityDone | ready | por | flashLockA | flashLockB
  deriving DecidableEq, Repr

/-- The bit of a flag (R43). -/
def Flag.pos : Flag → Nat
  | .crcError => 0
  | .badCommand => 1
  | .idVerifyFailed => 2
  | .timeout => 3
  | .reserved4 => 4
  | .memErase => 5
  | .preamble => 6
  | .systemEdit => 7
  | .spiFlashDirect => 8
  | .reserved9 => 9
  | .nonJtagActive => 10
  | .bypass => 11
  | .valid => 12
  | .done => 13
  | .securityDone => 14
  | .ready => 15
  | .por => 16
  | .flashLockA => 17
  | .flashLockB => 18

/-- The list NAME of R150: the flag of each of the 19 positions, bit 0 first. -/
def flagNames : List Flag :=
  [.crcError, .badCommand, .idVerifyFailed, .timeout, .reserved4, .memErase, .preamble, .systemEdit, .spiFlashDirect,
   .reserved9, .nonJtagActive, .bypass, .valid, .done, .securityDone, .ready, .por, .flashLockA, .flashLockB]

/-- The mask of a flag (R43). -/
def Flag.mask (f : Flag) : Word := (1 : Word) <<< f.pos

/-- `flag(w, F)`: the flag's bit (R153). -/
def flagSet (w : Word) (f : Flag) : Bool := w.getLsbD f.pos

/-- `decode(word)`: the flags whose bit is set, in bit order; total and without failure (R150, R151). -/
def decodeStatus (w : Word) : List Flag := flagNames.filter (flagSet w)

/-- The masked comparison of a poll: `(w & mask) = value` (R153, R177). -/
def matchesMask (w mask value : Word) : Bool := (w &&& mask) == value

/-- The last status word, where one has been read; no sequence reads ST before a status read wrote it (R54), so that
the value for NONE, 0, is never used by a reachable step. -/
def statusOr (st : Option Word) : Word := st.getD 0

end Sys2Proof.Machine
end

