-- ==== Sys2Proof/Machine/Memory.lean ====
section
/-! DEFINITION. The one memory the engine reads: the image buffers of the bitstream provider (20_memory.md R70 to R72). -/

namespace Sys2Proof.Machine

/-- A byte memory: the listed (offset, byte) pairs, in one canonical form (`Memory.wf`). -/
structure Memory where
  cells : List Host.Cell
  deriving DecidableEq, Repr

/-- What an unlisted offset reads as: 0x00. Every content of a buffer can be written in this form (log 12). -/
def unlistedByte : Byte := 0x00

/-- A memory with nothing listed. -/
def Memory.empty : Memory := ⟨[]⟩

/-- The listed byte at an offset, or what an unlisted offset reads as. -/
def lookupCell : List Host.Cell → Nat → Byte
  | [], _ => unlistedByte
  | c :: cs, a => if c.1 = a then c.2 else lookupCell cs a

/-- The byte at an offset. -/
def Memory.read (m : Memory) (a : Nat) : Byte := lookupCell m.cells a

/-- The cells with the byte at an offset replaced, offsets kept rising; the byte of an unlisted offset is not listed. -/
def writeCell : List Host.Cell → Nat → Byte → List Host.Cell
  | [], a, b => if b = unlistedByte then [] else [(a, b)]
  | c :: cs, a, b =>
    if a < c.1 then (if b = unlistedByte then c :: cs else (a, b) :: c :: cs)
    else if a = c.1 then (if b = unlistedByte then cs else (a, b) :: cs)
    else c :: writeCell cs a b

/-- The memory with one byte replaced. The engine never writes an image (R17, R70); the provider fills a buffer so. -/
def Memory.write (m : Memory) (a : Nat) (b : Byte) : Memory := ⟨writeCell m.cells a b⟩

/-- The canonical form of cells from an offset on: offsets rise strictly, no cell holds the unlisted byte. -/
def cellsFrom : Nat → List Host.Cell → Bool
  | _, [] => true
  | lo, c :: cs => decide (lo ≤ c.1) && c.2 != unlistedByte && cellsFrom (c.1 + 1) cs

/-- The canonical form of a memory. -/
def Memory.wf (m : Memory) : Bool := cellsFrom 0 m.cells

/-- The buffer that holds a list of bytes from an offset on. -/
def Memory.fill : List Byte → Nat → Memory → Memory
  | [], _, m => m
  | b :: bs, a, m => Memory.fill bs (a + 1) (m.write a b)

/-- The buffer that holds a list of bytes from offset 0 on. -/
def Memory.ofBytes (bs : List Byte) : Memory := Memory.fill bs 0 Memory.empty

/-- An image buffer: its bytes and its length in bits, `get_length()` (R70). -/
structure Image where
  mem : Memory
  bitLen : Nat
  deriving DecidableEq, Repr

/-- No image: length 0. -/
def Image.empty : Image := ⟨Memory.empty, 0⟩

/-- An image of whole bytes. -/
def Image.ofBytes (bs : List Byte) : Image := ⟨Memory.ofBytes bs, 8 * bs.length⟩

/-- LEN: the length in bytes (R70). -/
def Image.len (im : Image) : Nat := im.bitLen / 8

/-- `image_ok`: a positive multiple of 8 bits (R71, R342). -/
def Image.ok (im : Image) : Bool := decide (0 < im.bitLen) && im.bitLen % 8 == 0

/-- `MemRead(addr, n)`: the bytes at addr .. addr+n-1, defined only when addr + n ≤ LEN (R17, R70). -/
def Image.memRead (im : Image) (addr n : Nat) : Option (List Byte) :=
  if addr + n ≤ im.len then some ((List.range n).map fun i => im.mem.read (addr + i)) else none

/-- What the bitstream provider BS answers (R10, R70, R395): the image, the file type, whether `parse()` succeeds, the
16-bit checksum and the header values by name. -/
structure Bitstream where
  image : Image
  fileType : Text
  parses : Bool
  checksum : BitVec 16
  header : List (Text × Text)
  deriving DecidableEq, Repr

/-- No bitstream attached (log 13). -/
def Bitstream.absent : Bitstream := ⟨Image.empty, [], false, 0, []⟩

/-- `get_header_value(name)`: absent or a text (R278). -/
def Bitstream.headerValue (b : Bitstream) (name : Text) : Option Text :=
  (b.header.find? fun r => r.1 == name).map (·.2)

end Sys2Proof.Machine
end

