-- ==== Sys2Proof/Machine/Outcomes.lean ====
section
/-! DEFINITION. Outcomes, their codes and the log's entries (60_exceptions.md R360 to R369, R377). -/

namespace Sys2Proof.Machine

/-- Every failure, warning and report the engine produces (R363). -/
inductive Code where
  | configMcuDevice | configFiletype | configFlashUnsupported | configImage
  | pollTimeout | enableTimeout | disableTimeout | sramEraseTimeout | spiTimeout
  | notProgrammable | extAlgoFailed
  | sramEraseDoneSet | loadNotDone | flashEraseDoneSet | writeNotDone | checksumMismatch
  | verifyUnsupported | checksumSkipped
  | checksumOk | spiWait
  | refused
  deriving DecidableEq, Repr

/-- The number of a code (R363). -/
def Code.number : Code → Nat
  | .configMcuDevice => 0x01
  | .configFiletype => 0x02
  | .configFlashUnsupported => 0x03
  | .configImage => 0x04
  | .pollTimeout => 0x10
  | .enableTimeout => 0x11
  | .disableTimeout => 0x12
  | .sramEraseTimeout => 0x13
  | .spiTimeout => 0x14
  | .notProgrammable => 0x20
  | .extAlgoFailed => 0x21
  | .sramEraseDoneSet => 0x30
  | .loadNotDone => 0x31
  | .flashEraseDoneSet => 0x32
  | .writeNotDone => 0x33
  | .checksumMismatch => 0x34
  | .verifyUnsupported => 0x40
  | .checksumSkipped => 0x41
  | .checksumOk => 0x50
  | .spiWait => 0x51
  | .refused => 0x60

/-- The class of a code (R363, R364). -/
inductive CodeClass where
  | config | timeout | state | verify | unsupported | info | refusal
  deriving DecidableEq, Repr

/-- The class of each code (R363). -/
def Code.cls : Code → CodeClass
  | .configMcuDevice | .configFiletype | .configFlashUnsupported | .configImage => .config
  | .pollTimeout | .enableTimeout | .disableTimeout | .sramEraseTimeout | .spiTimeout => .timeout
  | .notProgrammable | .extAlgoFailed => .state
  | .sramEraseDoneSet | .loadNotDone | .flashEraseDoneSet | .writeNotDone | .checksumMismatch => .verify
  | .verifyUnsupported | .checksumSkipped => .unsupported
  | .checksumOk | .spiWait => .info
  | .refused => .refusal

/-- The three-valued outcome of a sequence (R360, R362). -/
inductive SeqOutcome where
  | ok
  | advisory (code : Code) (info : Word)
  | fatal (code : Code) (info : Word)
  deriving DecidableEq, Repr

/-- The rank of an outcome (R368). -/
def SeqOutcome.rank : SeqOutcome → Nat
  | .ok => 0
  | .advisory _ _ => 1
  | .fatal _ _ => 2

/-- Whether an outcome is Fatal. -/
def SeqOutcome.isFatal : SeqOutcome → Bool
  | .fatal _ _ => true
  | _ => false

/-- `worst(a, b)`: the more severe outcome, the first of two of equal rank (R368). -/
def worst (a b : SeqOutcome) : SeqOutcome := if a.rank < b.rank then b else a

/-- The kinds of a log entry (R41, R377). -/
inductive LogKind where
  | info | warning | error
  deriving DecidableEq, Repr

/-- An entry of LOG (R41, R377). -/
structure LogEntry where
  kind : LogKind
  code : Code
  value : Word
  deriving DecidableEq, Repr

end Sys2Proof.Machine
end

