-- ==== Sys2Proof/Machine/Literals.lean ====
section
/-! DEFINITION. The parameters that the spec's source fixes (00_scope.md R12). -/

namespace Sys2Proof.Machine

/-- TCK cycles after every command (R12, R172). -/
def latchClocks : Nat := 5

/-- What a register read shifts out: all ones (R12, R175). -/
def readProbe : List Byte := [0xFF, 0xFF, 0xFF, 0xFF]

/-- Attempts of the flash erase loop (R12, R250). -/
def eraseAttempts : Nat := 100

/-- Raw bursts of the extended variant (R12, R253). -/
def burstsLong : Nat := 65

/-- Raw bursts otherwise (R12, R253). -/
def burstsDefault : Nat := 1

/-- Clocks of one raw burst (R12, R254). -/
def burstWidth : Nat := 32

/-- The erase hold, 150 ms of active clocking (R12, R252). -/
def eraseHoldUs : Word := 150000

/-- TCK frequency of the on-chip flash path (R12, R270). -/
def flashProgClockHz : Nat := 2500000

/-- TCK frequency of the external flash path (R12, R290). -/
def extFlashClockHz : Nat := 10000000

/-- Bytes of a flash page (R12, R262). -/
def pageBytes : Nat := 256

/-- Words of a flash page (R12, R264). -/
def wordsPerPage : Nat := 64

/-- What fills the last page (R12, R263; 90_conflicts.md C1). -/
def padByte : Byte := 0xFF

/-- The page of the microcontroller firmware (R12, R270). -/
def mcuFwPage : Word := 0x380

/-- The settle time after the reload, 500 ms (R12, R266). -/
def reloadSettleUs : Word := 500000

/-- The identity of the extended erase variant (R12, R209). -/
def idLongVariant : Word := 0x0900281B

end Sys2Proof.Machine
end

