-- ==== Sys2Proof/Machine/Variant.lean ====
section
/-! DEFINITION. The device variant resolver (10_state.md R50 to R52, 42_variant_resolver.md). -/

namespace Sys2Proof.Machine

/-- The variant descriptor VAR (R50). -/
structure Variant where
  extendedErase : Bool
  legacyPins : Bool
  checksumKnown : Bool
  pinmap : PinMap
  extFlashForced : Bool
  spiEncoding : SpiEncoding
  extExit : ExtExit
  mcuAllowed : Bool
  flashWrite : Bool
  deriving DecidableEq, Repr

/-- The default descriptor's row (R52). -/
def defaultRow : VariantRow :=
  { extendedErase := false, legacyPins := false, checksumKnown := true, extFlashForced := false,
    spiEncoding := .encA, extExit := .finalOpcode, family := 0, exitFamily := 0 }

/-- The row of an identity: the first match of VARIANT_TABLE, or the default (R52, R209). -/
def rowOf (p : Params) (id : Word) : VariantRow :=
  ((p.variantTable.find? fun r => r.1 == id).map (·.2)).getD defaultRow

/-- `resolve(id)` (R200). The extended iteration of 0x0900281B is the source's own and holds whatever the table says
(R209); the pin map follows from the legacy flag (R200, R202), the firmware permission from MCU_FW_DEVICE (R207), the
flash-write support from FLASH_WRITE_SUPPORTED (R208). An identity of no device answering has no row, no firmware permission
and no refusal of flash writes (`Params.wf`), so that it resolves to the default (R200). -/
def resolve (p : Params) (id : Word) : Variant where
  extendedErase := (rowOf p id).extendedErase || id == idLongVariant
  legacyPins := (rowOf p id).legacyPins
  checksumKnown := (rowOf p id).checksumKnown
  pinmap := if (rowOf p id).legacyPins then p.pinmapSwapped else p.pinmapDefault
  extFlashForced := (rowOf p id).extFlashForced
  spiEncoding := (rowOf p id).spiEncoding
  extExit := (rowOf p id).extExit
  mcuAllowed := id == p.mcuFwDevice
  flashWrite := !p.noFlashWrite.contains id

/-- N_BURSTS (R201, R253). -/
def Variant.nBursts (v : Variant) : Nat := if v.extendedErase then burstsLong else burstsDefault

/-- T_WORD: the settle delay after each page word (R201). -/
def Variant.tWord (v : Variant) (p : Params) : Word := if v.extendedErase then p.tWordLong else p.tWord

end Sys2Proof.Machine
end

