-- ==== Sys2Proof/Machine/Wire.lean ====
section
/-! DEFINITION. The transport port: its operations, what the transport holds, and the transport's own step (00_scope.md R10,
10_state.md R42, R53, 41_command_channel.md R170). -/

namespace Sys2Proof.Machine

/-- A transport operation, in the forms of the op-stream syntax (R120), which has none for GetFreq (DESIGN CHOICE, log 29). -/
inductive TOp where
  /-- `IR op`: ShiftIR(op, 8). -/
  | ir (op : Byte)
  /-- `CLK n`: Toggle(n). -/
  | clk (n : Nat)
  /-- `DR n out [end] [cap]`: ShiftDR(out, n, stop); `cap` marks that the captured bytes are used. -/
  | dr (n : Nat) (out : List Byte) (stop : TapState) (cap : Bool)
  /-- `STATE s`: SetState(s). -/
  | state (s : TapState)
  /-- `FREQ hz`: SetFreq(hz). -/
  | freq (hz : Nat)
  /-- `FLUSH`: Flush(). -/
  | flush
  /-- `SLEEP us`: Sleep(us). It never stands in the queue (log 31). -/
  | sleep (us : Word)
  deriving DecidableEq, Repr

/-- What the transport holds (R42): the frequency in force, the TAP state, the content of the device's instruction
register, these three as the operations issued leave them (DESIGN CHOICE, log 30), the operations issued and how many of
those that go through the queue are performed on the wire (R53); and the model's own script of the captures to come, with the
count of the captures made (log 5). -/
structure Transport where
  freq : Nat
  tap : TapState
  ir : Byte
  issued : List TOp
  performed : Nat
  replies : List (List Byte)
  draws : Nat
  deriving DecidableEq, Repr

/-! The queue, and the transport's own step (R10, R53). -/

/-- Whether an operation goes through the queue. A Sleep does not: it is over when it returns (R171, log 31). -/
def TOp.isQueued : TOp → Bool
  | .sleep _ => false
  | _ => true

/-- The operations that went into the queue, in issue order. -/
def Transport.queued (x : Transport) : List TOp := x.issued.filter TOp.isQueued

/-- The operations issued and not yet performed (R42, R53). -/
def Transport.queue (x : Transport) : List TOp := x.queued.drop x.performed

/-- Whether it is the transport that moves next: it has an operation to perform, and the free choice says so (log 6). -/
def Transport.moves (x : Transport) : Bool :=
  decide (x.performed < x.queued.length) && Config.xportMoves x.issued.length x.performed

/-- The transport performs the oldest operation not yet performed (R10: in issue order). -/
def Transport.perform (x : Transport) : Transport := { x with performed := x.performed + 1 }

/-! The engine's operations (R170). Each changes the TAP state, the IR content and the frequency when it is issued, not when the
transport performs it from its queue, on which R42 and R53 are silent (DESIGN CHOICE, log 30). -/

/-- An operation is issued: it returns when the transport has taken it into its queue (R53, R171). -/
def Transport.issue (x : Transport) (op : TOp) : Transport := { x with issued := x.issued ++ [op] }

/-- The whole queue is performed (R53, R90). -/
def Transport.drainAll (x : Transport) : Transport := { x with performed := x.queued.length }

/-- `ShiftIR(op, 8)`: ends in RUN_TEST_IDLE (R170); TAP state and IR content change at issue (DESIGN CHOICE, log 30). -/
def Transport.shiftIR (x : Transport) (op : Byte) : Transport :=
  { x.issue (.ir op) with tap := .runTestIdle, ir := op }

/-- The five TAP states in which Toggle stays (R170). -/
def stableTap : TapState → Bool
  | .runTestIdle | .shiftDR | .shiftIR | .pauseDR | .pauseIR => true
  | _ => false

/-- The TAP state after Toggle(n): the same in a stable state (R170); from another one a free value (log 10). -/
def toggledTap (t : TapState) (n : Nat) : TapState := if stableTap t then t else Config.toggleFrom t n

/-- `Toggle(n)` (R170). -/
def Transport.toggle (x : Transport) (n : Nat) : Transport :=
  { x.issue (.clk n) with tap := toggledTap x.tap n }

/-- `SetState(s)` (R170, R179). -/
def Transport.setState (x : Transport) (t : TapState) : Transport := { x.issue (.state t) with tap := t }

/-- `SetFreq(hz)`: the frequency in force becomes the requested one (R42, R170). -/
def Transport.setFreq (x : Transport) (hz : Nat) : Transport := { x.issue (.freq hz) with freq := hz }

/-- `ShiftDR(out, n, stop)` whose captured bits are not used (R170). -/
def Transport.shiftDR (x : Transport) (out : List Byte) (n : Nat) (stop : TapState) : Transport :=
  { x.issue (.dr n out stop false) with tap := stop }

/-- The bytes that the next capture of `n` bits answers: the script's, and a free value for each byte that the script
does not give; the bits beyond `n` are 0 (R10, R113, log 5). -/
def Transport.answer (x : Transport) (n : Nat) : List Byte :=
  (List.range (ceilDiv n 8)).map fun k =>
    maskByte n k (((x.replies.headD [])[k]?).getD (Config.tdo x.draws k))

/-- `ShiftDR(out, n, stop)` with its capture: a round trip, in which the transport performs everything issued and returns
the captured bits (R11, R53, R170, R171). The captured bytes are `x.answer n`. -/
def Transport.capture (x : Transport) (out : List Byte) (n : Nat) (stop : TapState) : Transport :=
  { (x.issue (.dr n out stop true)).drainAll with
      tap := stop, replies := x.replies.tail, draws := x.draws + 1 }

/-- `Flush()`: returns after every earlier operation is performed (R90, R170). -/
def Transport.flush (x : Transport) : Transport := (x.issue .flush).drainAll

/-- `Sleep(us)`: a wall-clock wait with no TCK edge; it forces nothing out of the queue (R53, R170, R404). It
returns when the wait is over (R171), so that it is complete with its step; the queue may stand unperformed meanwhile (R53,
log 31). -/
def Transport.sleep (x : Transport) (us : Word) : Transport := x.issue (.sleep us)

/-- `send_command`: the IR shift and its 5 latch clocks, nothing between them (R172, R173). -/
def Transport.sendCommand (x : Transport) (op : Byte) : Transport := (x.shiftIR op).toggle latchClocks

/-- The transport before construction: its own frequency and TAP state (R54, U12), nothing issued. -/
def Transport.fresh (p : Params) : Transport :=
  { freq := p.fInit, tap := Config.initialTap, ir := Config.initialIr, issued := [], performed := 0, replies := [],
    draws := 0 }

/-- The identity read of construction as the transport sees it: `READ OP_READ_IDCODE` (R391). -/
def constructXport (p : Params) : Transport :=
  ((Transport.fresh p).sendCommand (p.op.code .readIdcode)).capture readProbe 32 .runTestIdle

/-- The identity that construction reads: a draw (R54, R391). -/
def constructId (p : Params) : Word := leWordOf (((Transport.fresh p).sendCommand (p.op.code .readIdcode)).answer 32)

end Sys2Proof.Machine
end

