-- ==== Sys2Proof/Machine/State.lean ====
section
/-! DEFINITION. The machine's state, its faults and refusals, and the state right after reset, which is construction
(10_state.md, 70_reset_and_hazards.md R390, R391). -/

namespace Sys2Proof.Machine

/-- The machine stops with a fault. Each is the model's own: the engine has no traps (R360). -/
inductive Fault where
  /-- Raised by MemRead when addr + n > LEN, where R70 does not define it; no rule issues such a read (U18), and no step
  from a state with a legal step pointer raises it. Safe. -/
  | memReadOutOfRange (addr n : Nat)
  /-- Raised by `step` when the step pointer names no step of its sequence; no sequence moves it there (R33). Safe. -/
  | pcOutsideSequence
  deriving DecidableEq, Repr

/-- A step has no meaning. -/
inductive Refusal where
  /-- Raised by an arm of `exec` whose instruction has no meaning in the model; no arm is left so. Safe. -/
  | notModelled (mnemonic : String)
  /-- Raised by `step` when the bytes at a port are no command and no request of the table, to which the spec gives no
  meaning (R116, R351). Safe. -/
  | undecodable (port : Port) (error : DecodeError)
  deriving DecidableEq, Repr

/-- The sequences the FSM runs (R33): those of 43_seq_config_sram.md to 47_host_interface.md, construction (R391), and
the pseudo-instruction `CMD op` standing alone (R121). -/
inductive Seq where
  | enable | disable | eraseSram | loadSram | eraseFlash | eraseAttempt | writeImage | writePage | imageEpilogue
  | programFlash | checksumCheck | externalFlash | resetDevice | programVolatile | readIdCode | readStatusRegister
  | spiTransfer | spiWait | transferA | transferB | construct
  | single (op : Byte)
  deriving DecidableEq, Repr

/-- The step pointer: IDLE, or a sequence and the number of its next step, which names the next transport operation of
the sequence in progress (R33). -/
inductive Pc where
  | idle
  | at (q : Seq) (n : Nat)
  deriving DecidableEq, Repr

/-- A caller of the sequence in progress: where it resumes, and whether its call is written with `?`, which passes a
Fatal result up at once (R20, R365), or binds every result. -/
structure Frame where
  seq : Seq
  step : Nat
  passFatal : Bool
  deriving DecidableEq, Repr

/-- Which image WriteImage writes (R262, R270). -/
inductive ImageSel where
  | main | mcu
  deriving DecidableEq, Repr

/-- The device effects that the per-command rules give (R180 to R196), and nothing more (R174). OP_NOOP, OP_XFER_DONE
and OP_FINALIZE_1 have none. -/
inductive DeviceEffect where
  /-- R181: the erase of volatile memory starts. -/
  | startSramErase
  /-- R182: the load ends. -/
  | endLoad
  /-- R185: the following DR read is of the identity register. -/
  | selectIdcode
  /-- R186: the start of the SRAM load is set. -/
  | setLoadStart
  /-- R187: the following DR read is of the user-code register. -/
  | selectUsercode
  /-- R188: configuration edit mode is entered. -/
  | enterEditMode
  /-- R189: the data register connects to the external SPI flash, least significant bit first. -/
  | connectSpiFlash
  /-- R190: the following DR stream is written into volatile memory. -/
  | streamToSram
  /-- R191: configuration edit mode is left. -/
  | leaveEditMode
  /-- R192: the device is reset (reload sequence). -/
  | reload
  /-- R193: the JTAG exit sequence of the FINAL_OPCODE family. -/
  | exitSequence
  /-- R194: the following DR read is of the status register. -/
  | selectStatus
  /-- R195: the next DR word is a page address, the following 64 its data. -/
  | pageFollows
  /-- R196: the on-chip flash is erased, driven by the bursts and the hold that follow. -/
  | eraseFlash
  deriving DecidableEq, Repr

/-- The operands of the SPI request in progress, as the pseudocode of R312 and R330 names them. -/
structure SpiCall where
  cmd : Byte
  mask : Byte
  expected : Byte
  bound : Word
  verbose : Bool
  /-- `rd`: the transaction reads. -/
  rd : Bool
  deriving DecidableEq, Repr

/-- The local variables of the sequences' pseudocode: `acc` (R270, R290, and R340's `r`), the result `r` a call returned,
`post` and `ok` of R290, the image WriteImage was called with, the index of the `for` loop in progress that counts raw
bursts, chunks, pages or SPI bits (log 23), the device effect of the command whose latch clocks are still to come (R173),
and the SPI request's operands. -/
structure Fsm where
  acc : SeqOutcome
  ret : SeqOutcome
  post : SeqOutcome
  algoOk : Bool
  image : ImageSel
  index : Nat
  latch : Option DeviceEffect
  spi : SpiCall
  deriving DecidableEq, Repr

/-- What the host puts in between host operations: a request (its bytes), a configuration write (R350), or a bitstream
to attach (R395, log 13). -/
inductive HostInput where
  | request (bytes : List Byte)
  | setMode (m : ProgMode)
  | setExtSel (v : Bool)
  /-- MCU_IMG_SEL 0 for none, 1 with the image (R350). -/
  | setMcuImg (im : Option Image)
  | setVerifyReq (v : Bool)
  | attach (b : Bitstream)
  deriving DecidableEq, Repr

/-- What the external flash algorithm does while it runs: a request to the SPI master (its bytes), or its end with OK
(true) or FAIL (false) (R296). -/
inductive ExtInput where
  | request (bytes : List Byte)
  | finish (ok : Bool)
  deriving DecidableEq, Repr

/-- What a host request returned (R55, R346, R347, R373). -/
inductive Returned where
  | idCode (v : Word)
  | status (w : Word) (flags : List Flag)
  | refused
  deriving DecidableEq, Repr

/-- What an SPI request returned (R312, R330, R373). -/
inductive SpiReply where
  | bytes (bs : List Byte)
  | success
  | timeoutError (last : Byte)
  | refused
  deriving DecidableEq, Repr

/-- The whole machine. INVENTORY.md gives each field's rule and its value at reset. -/
structure State where
  /-- ID (R31, R35). -/
  id : Word
  /-- VAR (R31, R50). -/
  var : Variant
  /-- MODE, UNSET as none (R31, R36). -/
  mode : Option ProgMode
  /-- EXT_SEL (R31). -/
  extSel : Bool
  /-- MCU_IMG_SEL (R31). -/
  mcuImgSel : Bool
  /-- VERIFY_REQ (R31). -/
  verifyReq : Bool
  /-- OFFSET (R31). -/
  offset : Word
  /-- UNPROTECT (R31). -/
  unprotect : Bool
  /-- ST, NONE before the first status read (R37, R54). -/
  st : Option Word
  /-- UC, NONE before the first user-code read (R31, R54). -/
  uc : Option Word
  /-- ATTEMPT (R31). -/
  attempt : BitVec 7
  /-- POLLCNT (R31). -/
  pollCnt : Word
  /-- PAGE (R31). -/
  page : Word
  /-- WORD (R31). -/
  word : BitVec 6
  /-- CHUNK (R31). -/
  chunk : Word
  /-- BIT (R31). -/
  bit : Word
  /-- TXB (R31, R39). -/
  txb : List Byte
  /-- RXB (R31, R39). -/
  rxb : List Byte
  /-- RESULT, NONE before the first host operation (R40, R54). -/
  result : Option SeqOutcome
  /-- LOG (R41). -/
  log : List LogEntry
  /-- The step pointer (R33). -/
  pc : Pc
  /-- The callers of the sequence in progress, innermost first (R371). -/
  callers : List Frame
  /-- The sequences' local variables. -/
  fsm : Fsm
  /-- What the transport holds (R42, R53). -/
  xport : Transport
  /-- The device effects of the commands issued so far (R174). -/
  device : List DeviceEffect
  /-- The bitstream (R70). -/
  bs : Bitstream
  /-- The firmware image (R72). -/
  mcu : Image
  /-- The host's pending inputs (R344, R350, R351). -/
  hostIn : List HostInput
  /-- The external algorithm's pending inputs (R296). -/
  extIn : List ExtInput
  /-- What the last host request returned (R55). -/
  returned : Option Returned
  /-- What the last SPI request returned (R55). -/
  spiReply : Option SpiReply
  /-- The OPEN parameters (R13). No step changes them. -/
  cfg : Params
  deriving DecidableEq, Repr

/-- A machine in which construction has left `x` at the transport and `i` in ID, every other register at its value of
R54 (or of log 9). -/
def State.constructed (p : Params) (i : Word) (x : Transport) : State where
  id := i
  var := resolve p i
  mode := none
  extSel := (resolve p i).extFlashForced
  mcuImgSel := false
  verifyReq := false
  offset := 0
  unprotect := false
  st := none
  uc := none
  attempt := 0
  pollCnt := 0
  page := 0
  word := 0
  chunk := 0
  bit := 0
  txb := []
  rxb := []
  result := none
  log := []
  pc := .idle
  callers := []
  fsm :=
    { acc := .ok, ret := .ok, post := .ok, algoOk := false, image := .main, index := 0, latch := none,
      spi := { cmd := 0, mask := 0, expected := 0, bound := 0, verbose := false, rd := false } }
  xport := x
  device := [.selectIdcode]
  bs := Bitstream.absent
  mcu := Image.empty
  hostIn := []
  extIn := []
  returned := none
  spiReply := none
  cfg := p

/-- The machine right after reset, which is construction (R390, R391, R54): the identity read is done, the variant
resolved, the step pointer IDLE. The parameters and the identity are free values (log 4, log 8). -/
def State.reset : State :=
  State.constructed Config.params (constructId Config.params) (constructXport Config.params)

/-- The machine before construction's first step: nothing of R391 has happened yet. Running construction from here gives
`State.reset`. -/
def State.unconstructed : State :=
  { State.constructed Config.params 0 (Transport.fresh Config.params) with
      device := [], pc := .at .construct 0 }

end Sys2Proof.Machine
end

