-- ==== Sys2Proof/Machine/Ops.lean ====
section
/-! DEFINITION. The shared operations over the state: the transport primitives and the command channel
(41_command_channel.md), the log, and the ends of sequences and host operations (60_exceptions.md). -/

namespace Sys2Proof.Machine

/-- A step of the transport alone. -/
def State.onXport (s : State) (f : Transport → Transport) : State := { s with xport := f s.xport }

/-! The transport primitives (R170). -/

/-- `ShiftDR` without capture. -/
def State.shiftDR (s : State) (out : List Byte) (n : Nat) (stop : TapState) : State :=
  s.onXport fun x => x.shiftDR out n stop

/-- `ShiftDR` with capture; the captured bytes are `s.xport.answer n`. -/
def State.capture (s : State) (out : List Byte) (n : Nat) (stop : TapState) : State :=
  s.onXport fun x => x.capture out n stop

/-- `SetState` (R170, R179). -/
def State.setTap (s : State) (t : TapState) : State := s.onXport fun x => x.setState t

/-- `Toggle`. -/
def State.toggle (s : State) (n : Nat) : State := s.onXport fun x => x.toggle n

/-- `SetFreq`. -/
def State.setFreq (s : State) (hz : Nat) : State := s.onXport fun x => x.setFreq hz

/-- `Flush`. -/
def State.flush (s : State) : State := s.onXport fun x => x.flush

/-- `Sleep`: over when its step is (R171, log 31). -/
def State.sleep (s : State) (us : Word) : State := s.onXport fun x => x.sleep us

/-! The command channel. -/

/-- The first operation of `send_command` (R172): the IR shift. The device effect that the command's rule gives waits for
the latch clocks, which are how a command takes effect (R173, R174). -/
def State.shiftCommand (s : State) (c : Cmd) (effect : Option DeviceEffect) : State :=
  { s with xport := s.xport.shiftIR (s.cfg.op.code c), fsm := { s.fsm with latch := effect } }

/-- The second operation of `send_command` (R172, R173): the 5 latch clocks, with which the command takes effect. -/
def State.latchCommand (s : State) : State :=
  { s with xport := s.xport.toggle latchClocks, device := s.device ++ s.fsm.latch.toList,
           fsm := { s.fsm with latch := none } }

/-- The second half of `read_register`: 32 ones shifted out, 32 bits captured (R175). -/
def State.captureWord (s : State) : State := s.capture readProbe 32 .runTestIdle

/-- The value that capture gives, by R77. -/
def State.answerWord (s : State) : Word := leWordOf (s.xport.answer 32)

/-- The cycle count of `send_clock_for_duration(us)`: floor(GetFreq() · us / 1 000 000), exact (R178). -/
def clockCount (hz : Nat) (us : Word) : Nat := hz * us.toNat / 1000000

/-- `send_clock_for_duration(us)` (R178): no Toggle when the count is 0. Its GetFreq, which R170 lists as an operation and R120
gives no stream form, reads the frequency within this step: no step of its own, no entry among the operations issued (DESIGN
CHOICE, log 29). -/
def State.clockFor (s : State) (us : Word) : State :=
  if clockCount s.xport.freq us = 0 then s else s.toggle (clockCount s.xport.freq us)

/-! The log. -/

/-- `Log(kind, code, value)` (R377). -/
def State.logEntry (s : State) (kind : LogKind) (code : Code) (value : Word) : State :=
  { s with log := s.log ++ [⟨kind, code, value⟩] }

/-- `Warn(code)` (R377). -/
def State.warn (s : State) (code : Code) : State := s.logEntry .warning code 0

/-- `refuse(code)` (R373): LOG only; the request code is the entry's value. What the requester receives is written by
the request. -/
def State.refuse (s : State) (request : Byte) : State := s.logEntry .error .refused (request.setWidth 32)

/-! The step pointer and the ends of sequences. -/

/-- The step pointer moves. -/
def State.goto (s : State) (q : Seq) (n : Nat) : State := { s with pc := .at q n }

/-- A host operation ends: RESULT is written and the step pointer is IDLE (R34, R369). -/
def State.finish (s : State) (o : SeqOutcome) : State :=
  { s with result := some o, pc := .idle, callers := [] }

/-- `raise ConfigError(code)` (R361): logged, RESULT Fatal, IDLE; no transport operation. -/
def State.raiseConfigError (s : State) (code : Code) : State :=
  (s.logEntry .error code 0).finish (.fatal code 0)

/-- A sequence calls another; `passFatal` is the `?` of R20. -/
def State.callSeq (s : State) (here : Seq) (resume : Nat) (passFatal : Bool) (q : Seq) : State :=
  { s with pc := .at q 0, callers := ⟨here, resume, passFatal⟩ :: s.callers }

/-- The callers that an outcome ends: a Fatal one ends every caller whose call passes it up (R365, R370). -/
def unwind (o : SeqOutcome) : List Frame → List Frame
  | [] => []
  | f :: fs => if o.isFatal && f.passFatal then unwind o fs else f :: fs

/-- A sequence returns an outcome (R19, R20, R365): to the nearest caller that does not pass it up, with the outcome
bound as its result; to the host when no caller is left. -/
def State.returnOutcome (s : State) (o : SeqOutcome) : State :=
  match unwind o s.callers with
  | [] => s.finish o
  | f :: fs => { s with pc := .at f.seq f.step, callers := fs, fsm := { s.fsm with ret := o } }

end Sys2Proof.Machine
end

