-- ==== Sys2Proof/Machine/Commands.lean ====
section
/-! DEFINITION. The meanings of the 17 commands (41_command_channel.md R180 to R196). A command is two transport operations,
each a step of its own (R10, R172): the instruction issues the IR shift of its parameter's value and says which device
effect, if any (R174), the 5 latch clocks of the next step bring (`State.latchCommand`). -/

namespace Sys2Proof.Machine

/-- OP_NOOP: a separator, no device effect (R180). -/
def execOpNoop (s : State) : Host.Outcome State Fault Refusal :=
  .next (s.shiftCommand .noop none)

/-- OP_ERASE_SRAM: starts the erase of volatile memory (R181). -/
def execOpEraseSram (s : State) : Host.Outcome State Fault Refusal :=
  .next (s.shiftCommand .eraseSram (some .startSramErase))

/-- OP_FINALIZE_2: ends the load (R182). -/
def execOpFinalize2 (s : State) : Host.Outcome State Fault Refusal :=
  .next (s.shiftCommand .finalize2 (some .endLoad))

/-- OP_XFER_DONE: no device effect given (R183). -/
def execOpXferDone (s : State) : Host.Outcome State Fault Refusal :=
  .next (s.shiftCommand .xferDone none)

/-- OP_FINALIZE_1: no device effect given (R184). -/
def execOpFinalize1 (s : State) : Host.Outcome State Fault Refusal :=
  .next (s.shiftCommand .finalize1 none)

/-- OP_READ_IDCODE: selects the identity register (R185). -/
def execOpReadIdcode (s : State) : Host.Outcome State Fault Refusal :=
  .next (s.shiftCommand .readIdcode (some .selectIdcode))

/-- OP_INIT_ADDR: sets the start of the SRAM load (R186). -/
def execOpInitAddr (s : State) : Host.Outcome State Fault Refusal :=
  .next (s.shiftCommand .initAddr (some .setLoadStart))

/-- OP_READ_USERCODE: selects the user-code register (R187). -/
def execOpReadUsercode (s : State) : Host.Outcome State Fault Refusal :=
  .next (s.shiftCommand .readUsercode (some .selectUsercode))

/-- OP_ENABLE: the device enters configuration edit mode (R188). -/
def execOpEnable (s : State) : Host.Outcome State Fault Refusal :=
  .next (s.shiftCommand .enable (some .enterEditMode))

/-- OP_SPI_PASSTHROUGH: the data register connects to the external SPI flash (R189). -/
def execOpSpiPassthrough (s : State) : Host.Outcome State Fault Refusal :=
  .next (s.shiftCommand .spiPassthrough (some .connectSpiFlash))

/-- OP_XFER_WRITE: the following DR stream is written into volatile memory (R190). -/
def execOpXferWrite (s : State) : Host.Outcome State Fault Refusal :=
  .next (s.shiftCommand .xferWrite (some .streamToSram))

/-- OP_DISABLE: the device leaves configuration edit mode (R191). -/
def execOpDisable (s : State) : Host.Outcome State Fault Refusal :=
  .next (s.shiftCommand .disable (some .leaveEditMode))

/-- OP_RELOAD: the device is reset, the reload sequence (R192). -/
def execOpReload (s : State) : Host.Outcome State Fault Refusal :=
  .next (s.shiftCommand .reload (some .reload))

/-- OP_EXT_FINAL: the JTAG exit sequence of one family (R193). -/
def execOpExtFinal (s : State) : Host.Outcome State Fault Refusal :=
  .next (s.shiftCommand .extFinal (some .exitSequence))

/-- OP_READ_STATUS: selects the status register (R194). -/
def execOpReadStatus (s : State) : Host.Outcome State Fault Refusal :=
  .next (s.shiftCommand .readStatus (some .selectStatus))

/-- OP_FLASH_PROGRAM: a page address and the page's 64 words follow (R195). -/
def execOpFlashProgram (s : State) : Host.Outcome State Fault Refusal :=
  .next (s.shiftCommand .flashProgram (some .pageFollows))

/-- OP_FLASH_ERASE: the on-chip flash is erased by the bursts and the hold that follow (R196). -/
def execOpFlashErase (s : State) : Host.Outcome State Fault Refusal :=
  .next (s.shiftCommand .flashErase (some .eraseFlash))

end Sys2Proof.Machine
end

