-- ==== Sys2Proof/Machine/Sequences.lean ====
section
/-! DEFINITION. The FSM's hardwired program (R33): the steps of each sequence, in the order of the spec's op streams and
pseudocode (43_seq_config_sram.md, 44_seq_flash.md, 45_seq_external_flash.md, 46_spi_master.md, 47_host_interface.md). A
step is a transport operation; between them stand the `if`s, loops, calls and returns of the pseudocode, which take no
step of their own (R34). -/

namespace Sys2Proof.Machine

/-- A condition on which a sequence branches. -/
inductive Cond where
  /-- `flag(ST, VALID) = 0` (R250). -/
  | validClear
  /-- `MCU_IMG_SEL = 0` (R270). -/
  | mcuNotSelected
  /-- `VAR.checksum_algorithm_known = 0` (R234, R270). -/
  | checksumUnknown
  /-- `VAR.ext_exit = DISABLE_NOOP` (R290). -/
  | exitDisableNoop
  /-- `VAR.ext_exit = FINAL_OPCODE` (R290). -/
  | exitFinalOpcode
  /-- `ERASE_HOLD_STATE = SHIFT_DR` (R252). -/
  | holdInShiftDR
  /-- The page in hand has address 0 (R264). -/
  | pageAddrZero
  deriving DecidableEq, Repr

/-- The duration of a clocked wait (R401). -/
inductive Delay where
  | eraseHold | pageGap | addr | word | pageTrail
  deriving DecidableEq, Repr

/-- A step that issues one transport operation, other than a command's two. -/
inductive Wire where
  /-- The capture of READ_STATUS: ST (R176). -/
  | readSt
  /-- The capture of the user-code read: UC (R278). -/
  | readUc
  /-- The capture of construction's identity read: ID, VAR and EXT_SEL (R391). -/
  | captureId
  /-- The capture of read_id_code: the value returned (R346). -/
  | readReturn
  | setTap (t : TapState)
  | setFreq (hz : Nat)
  | flush
  | sleep (us : Word)
  /-- `send_clock_for_duration`: no operation when its count is 0 (R178). -/
  | clkFor (d : Delay)
  /-- One raw burst: Toggle(32) (R254). -/
  | burst
  /-- `SetState(ERASE_HOLD_STATE)` (R252). -/
  | holdState
  /-- The stream's chunk in hand (R234). -/
  | chunkShift
  /-- The checksum word (R234, R236). -/
  | checksumShift
  /-- The page address word (R264). -/
  | addrShift
  /-- The page's data word WORD (R264). -/
  | wordShift
  /-- Encoding A: chip select asserted low (R316). -/
  | bscanStart
  /-- Encoding A: the clock-low shift of bit BIT (R316). -/
  | bscanLow
  /-- Encoding A: the clock-high shift of bit BIT, and its sample (R316, R319). -/
  | bscanHigh
  /-- Encoding A: chip select deasserted (R316). -/
  | bscanEnd
  /-- Encoding B: the intermediate TAP state (R322). -/
  | encBState
  /-- Encoding B: the shift of the whole transaction (R322). -/
  | encBShift
  deriving DecidableEq, Repr

/-- What stands between two transport operations: it issues none. -/
inductive Ctl where
  /-- A call; `passFatal` is the `?` of R20. -/
  | call (q : Seq) (passFatal : Bool)
  /-- The call of the variant's encoding (R311, R312). -/
  | callEncoding
  | jump (n : Nat)
  | branch (c : Cond) (n : Nat)
  /-- `return Ok`. -/
  | retOk
  /-- `return acc`. -/
  | retAcc
  /-- Return what the last call returned. -/
  | retRet
  /-- Return Ok when DONE of ST is `want`; else log the code and return it as Advisory with ST (R226, R234, R250, R266). -/
  | retDone (want : Bool) (code : Code)
  /-- The step pointer becomes IDLE, RESULT unchanged: the end of construction (R391) and of a lone command. -/
  | leave
  /-- `acc <- Ok`. -/
  | accInit
  /-- `acc <- worst(acc, r)` (R368). -/
  | accWorst
  /-- POLLCNT <- 0 (R177, R330). -/
  | pollInit
  /-- After a poll's status read: count it; on a match go on; read again, from step `n`, while POLLCNT < POLL_MAX; else
  Fatal(code, last status) (R177, R366). -/
  | pollNext (mask value : Word) (code : Code) (n : Nat)
  /-- Go on when VALID or POR of ST is set; else log and return Fatal(E_NOT_PROGRAMMABLE, ST) (R271). -/
  | requireProgrammable
  | chunkInit
  /-- After a chunk: the next one at step `n`, or on after the last (R234). -/
  | chunkNext (n : Nat)
  | attemptInit
  /-- After an attempt: on with the sequence when DONE is clear or 100 attempts are done, else back to step `n` (R250, R255). -/
  | attemptNext (n : Nat)
  | burstInit
  /-- After a raw burst: the next one at step `n`, or on after N_BURSTS (R254). -/
  | burstNext (n : Nat)
  /-- The image that the next WriteImage writes (R270). -/
  | selectImage (i : ImageSel)
  | pageInit
  /-- After a page: the next page at step `n`, or on after the last (R262). -/
  | pageNext (n : Nat)
  | wordInit
  /-- After a word and its delay: the next word at step `n`, or on after the 64th (R264). -/
  | wordNext (n : Nat)
  /-- The two comparisons of the checksum check, and its return (R278). -/
  | checksumEnd
  /-- `if VERIFY_REQ = 1: Warn(W_VERIFY_UNSUPPORTED)` (R270, R272). -/
  | warnVerify
  /-- `Warn(W_CHECKSUM_SKIPPED)` (R270, R272). -/
  | warnChecksumSkipped
  /-- `post <- Ok` (R290). -/
  | postInit
  /-- `post <- r` (R290). -/
  | postSet
  /-- The return of ExternalFlash (R290). -/
  | extReturn
  /-- The status word and its flags are returned to the host (R347). -/
  | returnStatus
  /-- RXB <- [0x00] * (1+L) (R316). -/
  | rxClear
  | bitInit
  /-- After a bit: the next one at step `n`, or on after the last (R316). -/
  | bitNext (n : Nat)
  /-- TXB <- [cmd, 0x00]: the transfer of a wait_until (R312, R330). -/
  | loadPoll
  /-- The received bytes are returned to the external algorithm (R312). -/
  | replyBytes
  /-- After a transaction of wait_until: count, log, compare; the next one at step `n`, or the return (R330). -/
  | waitNext (n : Nat)
  deriving DecidableEq, Repr

/-- An entry of a sequence. -/
inductive Micro where
  /-- The IR shift of a command: the machine runs that command as an instruction (R172). -/
  | cmd (c : Cmd)
  /-- The IR shift of the command that a byte stands for: `CMD op` (R121). -/
  | cmdByte (b : Byte)
  /-- The 5 latch clocks of the command before (R172, R173). -/
  | latch
  /-- Another transport operation. -/
  | op (w : Wire)
  /-- No transport operation. -/
  | ctl (c : Ctl)
  /-- EXTALGO runs (R296): the machine takes its requests here until it ends. -/
  | algorithm
  deriving DecidableEq, Repr

def maskSystemEdit : Word := 0x00000080
def maskMemErase : Word := 0x00000020

/-- The steps of each sequence. -/
def rom : Seq → List Micro
  -- R220
  | .enable =>
    [.cmd .enable, .latch, .ctl .pollInit, .cmd .readStatus, .latch, .op .readSt,
     .ctl (.pollNext maskSystemEdit maskSystemEdit .enableTimeout 3), .ctl .retOk]
  -- R222
  | .disable =>
    [.cmd .disable, .latch, .cmd .noop, .latch, .ctl .pollInit, .cmd .readStatus, .latch, .op .readSt,
     .ctl (.pollNext maskSystemEdit 0 .disableTimeout 5), .ctl .retOk]
  -- R226
  | .eraseSram =>
    [.ctl (.call .enable true), .cmd .eraseSram, .latch, .cmd .noop, .latch, .ctl .pollInit, .cmd .readStatus, .latch,
     .op .readSt, .ctl (.pollNext maskMemErase maskMemErase .sramEraseTimeout 6), .cmd .xferDone, .latch, .cmd .noop,
     .latch, .ctl (.call .disable true), .cmd .readStatus, .latch, .op .readSt,
     .ctl (.retDone false .sramEraseDoneSet)]
  -- R234
  | .loadSram =>
    [.ctl (.call .enable true), .cmd .initAddr, .latch, .cmd .xferWrite, .latch, .ctl .chunkInit, .op .chunkShift,
     .ctl (.chunkNext 6), .cmd .finalize1, .latch, .ctl (.branch .checksumUnknown 12), .op .checksumShift,
     .cmd .finalize2, .latch, .ctl (.call .disable true), .cmd .readStatus, .latch, .op .readSt,
     .ctl (.retDone true .loadNotDone)]
  -- R250
  | .eraseFlash =>
    [.cmd .readStatus, .latch, .op .readSt, .ctl (.branch .validClear 5), .ctl (.call .eraseSram true),
     .ctl .attemptInit, .ctl (.call .eraseAttempt true), .ctl (.attemptNext 6), .ctl (.retDone false .flashEraseDoneSet)]
  -- R252, R254
  | .eraseAttempt =>
    [.ctl (.call .enable true), .cmd .flashErase, .latch, .op (.setTap .runTestIdle), .op (.setTap .shiftDR),
     .ctl .burstInit, .op .burst, .ctl (.burstNext 6), .ctl (.branch .holdInShiftDR 10), .op .holdState,
     .op (.clkFor .eraseHold), .ctl (.call .disable true), .cmd .readStatus, .latch, .op .readSt, .ctl .retOk]
  -- R262
  | .writeImage =>
    [.ctl .pageInit, .ctl (.call .writePage true), .ctl (.pageNext 1), .ctl (.call .imageEpilogue true), .ctl .retRet]
  -- R264
  | .writePage =>
    [.ctl (.branch .pageAddrZero 2), .op (.clkFor .pageGap), .ctl (.call .enable true), .cmd .flashProgram, .latch,
     .op .addrShift, .op (.clkFor .addr), .ctl .wordInit, .op .wordShift, .op (.clkFor .word), .ctl (.wordNext 8),
     .op (.clkFor .pageTrail), .ctl .retOk]
  -- R266
  | .imageEpilogue =>
    [.ctl (.call .disable true), .cmd .reload, .latch, .cmd .noop, .latch, .op .flush, .op (.sleep reloadSettleUs),
     .cmd .readStatus, .latch, .op .readSt, .ctl (.retDone true .writeNotDone)]
  -- R270
  | .programFlash =>
    [.op (.setFreq flashProgClockHz), .ctl (.call .disable true), .op (.setTap .testLogicReset), .cmd .readStatus,
     .latch, .op .readSt, .ctl .requireProgrammable, .ctl .accInit, .ctl (.call .eraseFlash true), .ctl .accWorst,
     .ctl (.selectImage .main), .ctl (.call .writeImage true), .ctl .accWorst, .ctl (.branch .mcuNotSelected 17),
     .ctl (.selectImage .mcu), .ctl (.call .writeImage true), .ctl .accWorst, .ctl .warnVerify,
     .ctl (.branch .checksumUnknown 22), .ctl (.call .checksumCheck false), .ctl .accWorst, .ctl .retAcc,
     .ctl .warnChecksumSkipped, .ctl .retAcc]
  -- R278
  | .checksumCheck =>
    [.cmd .readUsercode, .latch, .op .readUc, .ctl .checksumEnd]
  -- R290
  | .externalFlash =>
    [.op (.setFreq extFlashClockHz), .ctl (.call .enable true), .ctl .accInit, .ctl (.call .eraseSram true),
     .ctl .accWorst, .cmd .xferDone, .latch, .cmd .noop, .latch, .ctl (.branch .exitDisableNoop 13), .cmd .extFinal,
     .latch, .ctl (.jump 16), .ctl (.call .disable true), .cmd .noop, .latch, .algorithm, .ctl .postInit,
     .ctl (.branch .exitFinalOpcode 21), .ctl (.call .disable false), .ctl .postSet, .ctl (.call .resetDevice false),
     .ctl .extReturn]
  -- R345
  | .resetDevice =>
    [.cmd .reload, .latch, .cmd .noop, .latch, .ctl .retOk]
  -- R340, MODE = VOLATILE
  | .programVolatile =>
    [.ctl .accInit, .ctl (.call .eraseSram true), .ctl .accWorst, .ctl (.call .loadSram false), .ctl .accWorst,
     .ctl .retAcc]
  -- R346
  | .readIdCode =>
    [.cmd .readIdcode, .latch, .op .readReturn, .ctl .retOk]
  -- R347
  | .readStatusRegister =>
    [.cmd .readStatus, .latch, .op .readSt, .ctl .returnStatus, .ctl .retOk]
  -- R312
  | .spiTransfer =>
    [.ctl .callEncoding, .ctl .replyBytes]
  -- R330
  | .spiWait =>
    [.ctl .pollInit, .ctl .loadPoll, .ctl .callEncoding, .ctl (.waitNext 1)]
  -- R316
  | .transferA =>
    [.ctl .rxClear, .op .bscanStart, .ctl .bitInit, .op .bscanLow, .op .bscanHigh, .ctl (.bitNext 3), .op .bscanEnd,
     .ctl .retOk]
  -- R322
  | .transferB =>
    [.cmd .spiPassthrough, .latch, .op .encBState, .op .encBShift, .ctl .retOk]
  -- R391
  | .construct =>
    [.cmd .readIdcode, .latch, .op .captureId, .ctl .leave]
  -- R121: CMD op
  | .single b =>
    [.cmdByte b, .latch, .ctl .leave]

/-- The step of a sequence, where it has one. -/
def microAt (q : Seq) (n : Nat) : Option Micro := (rom q)[n]?

/-- The step of ExternalFlash at which the external algorithm runs (R290). -/
def algorithmStep : Nat := 16

end Sys2Proof.Machine
end

