-- ==== Sys2Proof/Machine/Operands.lean ====
section
/-! DEFINITION. Operand assembly (30_encoding.md R103 to R113): data words, pages, stream chunks, SPI bytes and the header
checksum's text. -/

namespace Sys2Proof.Machine

/-! Words of the SRAM load and of the page writes. -/

/-- The SRAM checksum word: the 16-bit checksum zero-extended, little-endian (R82, R103, R111). -/
def checksumWord (cs : BitVec 16) : List Byte := leBytes (cs.setWidth 32)

/-- The page address word, little-endian (R79, R103). -/
def addressWord (a : Word) : List Byte := leBytes a

/-- Byte `i` of page `k` of an image written at page address `addr`: the signature at the start of page address 0, the
image's byte, or the pad byte past its end (R110, R263). -/
def pageByte (sig : Signature) (im : Image) (addr : Word) (k i : Nat) : Byte :=
  if addr = 0 ∧ i = 0 then sig.b0
  else if addr = 0 ∧ i = 1 then sig.b1
  else if addr = 0 ∧ i = 2 then sig.b2
  else if addr = 0 ∧ i = 3 then sig.b3
  else if pageBytes * k + i < im.len then im.mem.read (pageBytes * k + i)
  else padByte

/-- Page `k` of an image, 256 bytes (R110, R263). -/
def pageContent (sig : Signature) (im : Image) (addr : Word) (k : Nat) : List Byte :=
  (List.range pageBytes).map (pageByte sig im addr k)

/-- The word of a page at index `j`: its four bytes in reversed order (R80, R110). -/
def pageWord (pg : List Byte) (j : Nat) : List Byte :=
  [pg.getD (4 * j + 3) 0, pg.getD (4 * j + 2) 0, pg.getD (4 * j + 1) 0, pg.getD (4 * j) 0]

/-- The number of pages of an image: ceil(LEN / 256) (R110). -/
def pageCount (im : Image) : Nat := ceilDiv im.len pageBytes

/-- The number of chunks of the SRAM stream: ceil(LEN / CHUNK_BYTES) (R104, R234). -/
def chunkCount (p : Params) (im : Image) : Nat := ceilDiv im.len p.chunkBytes

/-- The bytes of chunk `j`: min(CHUNK_BYTES, LEN - j·CHUNK_BYTES) (R234). -/
def chunkSize (p : Params) (im : Image) (j : Nat) : Nat := min p.chunkBytes (im.len - j * p.chunkBytes)

/-! The image that WriteImage writes. -/

/-- The image in hand (R262, R270). -/
def State.curImage (s : State) : Image :=
  match s.fsm.image with
  | .main => s.bs.image
  | .mcu => s.mcu

/-- The base page of the image in hand: 0 or MCU_FW_PAGE (R262). -/
def State.curBase (s : State) : Word :=
  match s.fsm.image with
  | .main => 0
  | .mcu => mcuFwPage

/-- The address word of the page in hand: b + k, 32 bits (R110, R264). -/
def State.pageAddr (s : State) : Word := s.curBase + s.page

/-- The content of the page in hand (R263). -/
def State.curPage (s : State) : List Byte := pageContent s.cfg.autobootSig s.curImage s.pageAddr s.fsm.index

/-! SPI operands. -/

/-- A boundary-scan byte of Encoding A: mask and data-out positions 1, the unmapped ones 0 (R106, R117, R317). -/
def bscanByte (pm : PinMap) (cs sck di : Bool) : Byte :=
  ((1 : Byte) <<< pm.msk.val) ||| ((1 : Byte) <<< pm.dout.val)
    ||| ((if cs then (1 : Byte) else 0) <<< pm.cs.val)
    ||| ((if sck then (1 : Byte) else 0) <<< pm.sck.val)
    ||| ((if di then (1 : Byte) else 0) <<< pm.di.val)

/-- The payload length of a transfer: of the write bytes when given, else the read length, else 0 (R112, R312). -/
def payloadLength (tx : Option (List Byte)) (rl : Option Word) : Nat :=
  match tx, rl with
  | some l, _ => l.length
  | none, some n => n.toNat
  | none, none => 0

/-- A transfer with write bytes and a read length that differs from their count: refused (R313). -/
def lengthsDisagree (tx : Option (List Byte)) (rl : Option Word) : Bool :=
  match tx, rl with
  | some l, some n => l.length != n.toNat
  | _, _ => false

/-- The transmitted bytes: the command, then the write bytes, or zeros for the read length (R112, R312). -/
def transmitBytes (cmd : Byte) (tx : Option (List Byte)) (rl : Option Word) : List Byte :=
  cmd :: (match tx with
    | some l => l
    | none => List.replicate (payloadLength none rl) 0)

/-- Bit `k` of a transaction, most significant bit of each byte first (R83, R316). -/
def serialBit (bs : List Byte) (k : Nat) : Bool := bitOf (bs.getD (k / 8) 0) (7 - k % 8)

/-- The received bytes with the sample of bit `k` put in, most significant first (R316, R319). -/
def putSerialBit (bs : List Byte) (k : Nat) (v : Bool) : List Byte :=
  bs.modify (k / 8) fun b => setBitOf b (7 - k % 8) v

/-- Byte `i` of the payload that Encoding B receives: the one-bit frame offset undone (R113, R322). -/
def encBByte (cap : List Byte) (i : Nat) : Byte :=
  ((revByte (cap.getD (i + 1) 0) &&& 0x7F) <<< 1) ||| (revByte (cap.getD (i + 2) 0) >>> 7)

/-- The extra bits of an Encoding B shift: ENC_B_EXTRA_BITS for a transaction that reads, else 0 (R107, R322). -/
def encBExtra (p : Params) (rd : Bool) : Nat := if rd then p.encBExtraBits else 0

/-- The bytes that an Encoding B transaction shifts out: each bit-reversed, then zeros for the extra bits (R107, R322). -/
def encBOut (p : Params) (tx : List Byte) (rd : Bool) : List Byte :=
  tx.map revByte ++ List.replicate (ceilDiv (encBExtra p rd) 8) 0

/-! The header checksum's text (R279). -/

/-- The value of a hexadecimal digit, in either case. -/
def hexDigit (c : Byte) : Option Nat :=
  if 0x30 ≤ c.toNat ∧ c.toNat ≤ 0x39 then some (c.toNat - 0x30)
  else if 0x41 ≤ c.toNat ∧ c.toNat ≤ 0x46 then some (c.toNat - 0x41 + 10)
  else if 0x61 ≤ c.toNat ∧ c.toNat ≤ 0x66 then some (c.toNat - 0x61 + 10)
  else none

/-- The value of hexadecimal digits, most significant first; none when a character is no digit. -/
def hexValue (acc : Nat) : Text → Option Nat
  | [] => some acc
  | c :: cs =>
    match hexDigit c with
    | some d => hexValue (16 * acc + d) cs
    | none => none

/-- The text without its optional `0x` or `0X`. -/
def dropHexPrefix : Text → Text
  | a :: b :: rest => if a = 0x30 ∧ (b = 0x78 ∨ b = 0x58) then rest else a :: b :: rest
  | t => t

/-- `parse_hex32(h)`: an optional prefix and one to eight hexadecimal digits, nothing else (R279). -/
def parseHex32 (h : Text) : Option Word :=
  let t := dropHexPrefix h
  if 1 ≤ t.length ∧ t.length ≤ 8 then (hexValue 0 t).map (BitVec.ofNat 32) else none

/-- The fallback value of the checksum check: the header's, where it is present and parses (R278, R279). -/
def fallbackChecksum (p : Params) (b : Bitstream) : Option Word :=
  (b.headerValue p.headerChecksumKey).bind parseHex32

/-- The checksum check's match: the low 16 bits against the bitstream's checksum, or all 32 against the fallback (R278). -/
def checksumMatches (p : Params) (b : Bitstream) (uc : Word) : Bool :=
  uc.setWidth 16 == b.checksum || fallbackChecksum p b == some uc

end Sys2Proof.Machine
end

