-- ==== Sys2Proof/Machine/Spi.lean ====
section
/-! DEFINITION. The bit-banged SPI master: the registers' loading, the operations of both encodings, and what a transaction
has received (46_spi_master.md). -/

namespace Sys2Proof.Machine

/-- A transaction's bytes are loaded, the received ones cleared (R39, R312), its operands bound. -/
def State.loadSpi (s : State) (tx : List Byte) (call : SpiCall) : State :=
  { s with txb := tx, rxb := [], fsm := { s.fsm with spi := call } }

/-- The bits of the transaction in hand: 8·(1+L) (R316). -/
def State.spiBitCount (s : State) : Nat := 8 * s.txb.length

/-- The data-in level of the bit in hand (R316). -/
def State.dataIn (s : State) : Bool := serialBit s.txb s.fsm.index

/-! Encoding A (R316). -/

/-- One 8-bit boundary-scan shift, its captured byte not used (R106, R316). -/
def State.bscan (s : State) (cs sck di : Bool) : State :=
  s.shiftDR [bscanByte s.var.pinmap cs sck di] 8 .runTestIdle

/-- The clock-high shift of the bit in hand: its capture is used when the transaction reads, and its data-out bit goes
into RXB (R316, R319). -/
def State.clockHigh (s : State) : State :=
  if s.fsm.spi.rd then
    { s.capture [bscanByte s.var.pinmap false true s.dataIn] 8 .runTestIdle with
        rxb := putSerialBit s.rxb s.fsm.index (bitOf ((s.xport.answer 8).getD 0 0) s.var.pinmap.dout.val) }
  else s.bscan false true s.dataIn

/-! Encoding B (R322). -/

/-- The number of bits of the transaction's shift: 8·(1+L) + x (R107, R322). -/
def State.encBBits (s : State) : Nat := s.spiBitCount + encBExtra s.cfg s.fsm.spi.rd

/-- The shift of the whole transaction; the payload is reassembled when it reads (R322). -/
def State.passthroughShift (s : State) : State :=
  if s.fsm.spi.rd then
    { s.capture (encBOut s.cfg s.txb true) s.encBBits .runTestIdle with
        rxb := (List.range (s.txb.length - 1)).map (encBByte (s.xport.answer s.encBBits)) }
  else s.shiftDR (encBOut s.cfg s.txb false) s.encBBits .runTestIdle

/-! What was received. -/

/-- The payload bytes a transaction that read has received, from RXB: Encoding A keeps the byte received during the
command first and never returns it (R112, R316), Encoding B keeps the payload alone (R322). -/
def State.received (s : State) : List Byte :=
  match s.var.spiEncoding with
  | .encA => s.rxb.drop 1
  | .encB => s.rxb

/-- The bytes a transfer returns: the payload when it reads, else none (R312). -/
def State.replyBytes (s : State) : List Byte := if s.fsm.spi.rd then s.received else []

/-- The byte that a status-read transaction of wait_until gives: `transfer(cmd, none, 1)[0]` (R330). -/
def State.polledByte (s : State) : Byte := s.received.getD 0 0

end Sys2Proof.Machine
end

