-- ==== Sys2Proof/Machine/Control.lean ====
section
/-! DEFINITION. What stands between two transport operations of a sequence, and how the step pointer comes to rest: at the
next transport operation, at the external algorithm's step, or IDLE (R33, R34). -/

namespace Sys2Proof.Machine

/-- Whether a condition holds. -/
def State.holds (s : State) : Cond → Bool
  | .validClear => !flagSet (statusOr s.st) .valid
  | .mcuNotSelected => !s.mcuImgSel
  | .checksumUnknown => !s.var.checksumKnown
  | .exitDisableNoop => s.var.extExit == .disableNoop
  | .exitFinalOpcode => s.var.extExit == .finalOpcode
  | .holdInShiftDR => s.cfg.eraseHoldState == .shiftDR
  | .pageAddrZero => s.pageAddr == 0

/-- The microseconds of a clocked wait (R252, R264, R265, R201). -/
def State.delayUs (s : State) : Delay → Word
  | .eraseHold => eraseHoldUs
  | .pageGap => s.cfg.tPageGap
  | .addr => s.cfg.tAddr
  | .word => s.var.tWord s.cfg
  | .pageTrail => s.cfg.tPageTrail

/-- A sequence ends with an Advisory that is logged (R226, R234, R250, R266). -/
def State.returnAdvisory (s : State) (code : Code) (info : Word) : State :=
  (s.logEntry .error code info).returnOutcome (.advisory code info)

/-- The return by the DONE flag: Ok when it is `want`, else the Advisory (R226, R234, R250, R266). -/
def State.returnByDone (s : State) (want : Bool) (code : Code) : State :=
  if flagSet (statusOr s.st) .done = want then s.returnOutcome .ok
  else s.returnAdvisory code (statusOr s.st)

/-- A loop's index and the register that shows it are set, and the step pointer moves. -/
def State.loopTo (s : State) (i : Nat) (q : Seq) (n : Nat) : State :=
  { s with fsm := { s.fsm with index := i }, pc := .at q n }

/-- After a poll's status read (R177): count it; go on at a match; read again while POLLCNT < POLL_MAX; else the timeout is
logged and the caller's Fatal returned (R366). -/
def State.pollNext (s : State) (q : Seq) (n : Nat) (mask value : Word) (code : Code) (again : Nat) : State :=
  let t := { s with pollCnt := s.pollCnt + 1 }
  if matchesMask (statusOr s.st) mask value then t.goto q (n + 1)
  else if t.pollCnt.toNat < s.cfg.pollMax.toNat then t.goto q again
  else (t.logEntry .error .pollTimeout (statusOr s.st)).returnOutcome (.fatal code (statusOr s.st))

/-- The precondition of ProgramFlash (R271). -/
def State.requireProgrammable (s : State) (q : Seq) (n : Nat) : State :=
  if flagSet (statusOr s.st) .valid || flagSet (statusOr s.st) .por then s.goto q (n + 1)
  else (s.logEntry .error .notProgrammable (statusOr s.st)).returnOutcome (.fatal .notProgrammable (statusOr s.st))

/-- The user code read last; the check reads it before it compares (R278). -/
def State.userCode (s : State) : Word := s.uc.getD 0

/-- The checksum check after its read: a match is Ok and logged as INFO, no match an Advisory logged as ERROR (R278,
R280). -/
def State.checksumEnd (s : State) : State :=
  if checksumMatches s.cfg s.bs s.userCode then (s.logEntry .info .checksumOk s.userCode).returnOutcome .ok
  else s.returnAdvisory .checksumMismatch s.userCode

/-- The return of ExternalFlash: FAIL of the algorithm first, then a Fatal of the post-algorithm Disable, then the
erase's outcome (R290, R372). -/
def State.externalEnd (s : State) : State :=
  if !s.fsm.algoOk then (s.logEntry .error .extAlgoFailed 0).returnOutcome (.fatal .extAlgoFailed 0)
  else if s.fsm.post.isFatal then s.returnOutcome s.fsm.post
  else s.returnOutcome s.fsm.acc

/-- A transaction of wait_until is counted, and logged when verbose (R330). -/
def State.countWait (s : State) : State :=
  let t := { s with pollCnt := s.pollCnt + 1 }
  if s.fsm.spi.verbose then t.logEntry .info .spiWait (s.polledByte.setWidth 32) else t

/-- After a transaction of wait_until (R330): success at a match, the next transaction while POLLCNT < bound, else a
timeout error with the last byte. -/
def State.waitNext (s : State) (q : Seq) (again : Nat) : State :=
  if s.polledByte &&& s.fsm.spi.mask = s.fsm.spi.expected then
    { s.countWait with spiReply := some .success }.returnOutcome .ok
  else if s.countWait.pollCnt.toNat < s.fsm.spi.bound.toNat then s.countWait.goto q again
  else
    ({ s.countWait with spiReply := some (.timeoutError s.polledByte) }.logEntry .error .spiTimeout
      (s.polledByte.setWidth 32)).returnOutcome .ok

/-- The move at entry `n` of sequence `q`: what the pseudocode says there. It issues no transport operation. -/
def State.move (s : State) (q : Seq) (n : Nat) : Ctl → State
  | .call c pass => s.callSeq q (n + 1) pass c
  | .callEncoding =>
    match s.var.spiEncoding with
    | .encA => s.callSeq q (n + 1) true .transferA
    | .encB => s.callSeq q (n + 1) true .transferB
  | .jump k => s.goto q k
  | .branch c k => s.goto q (if s.holds c then k else n + 1)
  | .retOk => s.returnOutcome .ok
  | .retAcc => s.returnOutcome s.fsm.acc
  | .retRet => s.returnOutcome s.fsm.ret
  | .retDone want code => s.returnByDone want code
  | .leave => { s with pc := .idle, callers := [] }
  | .accInit => { s with fsm := { s.fsm with acc := .ok } }.goto q (n + 1)
  | .accWorst => { s with fsm := { s.fsm with acc := worst s.fsm.acc s.fsm.ret } }.goto q (n + 1)
  | .pollInit => { s with pollCnt := 0 }.goto q (n + 1)
  | .pollNext mask value code k => s.pollNext q n mask value code k
  | .requireProgrammable => s.requireProgrammable q n
  | .chunkInit => { s with chunk := 0 }.loopTo 0 q (n + 1)
  | .chunkNext k =>
    if s.fsm.index + 1 < chunkCount s.cfg s.bs.image then
      { s with chunk := BitVec.ofNat 32 (s.fsm.index + 1) }.loopTo (s.fsm.index + 1) q k
    else s.goto q (n + 1)
  | .attemptInit => { s with attempt := 0 }.goto q (n + 1)
  | .attemptNext k =>
    if flagSet (statusOr s.st) .done ∧ s.attempt.toNat + 1 < eraseAttempts then
      { s with attempt := s.attempt + 1 }.goto q k
    else s.goto q (n + 1)
  | .burstInit => s.loopTo 0 q (n + 1)
  | .burstNext k =>
    if s.fsm.index + 1 < s.var.nBursts then s.loopTo (s.fsm.index + 1) q k else s.goto q (n + 1)
  | .selectImage i => { s with fsm := { s.fsm with image := i } }.goto q (n + 1)
  | .pageInit => { s with page := 0 }.loopTo 0 q (n + 1)
  | .pageNext k =>
    if s.fsm.index + 1 < pageCount s.curImage then
      { s with page := BitVec.ofNat 32 (s.fsm.index + 1) }.loopTo (s.fsm.index + 1) q k
    else s.goto q (n + 1)
  | .wordInit => { s with word := 0 }.goto q (n + 1)
  | .wordNext k =>
    if s.word.toNat + 1 < wordsPerPage then { s with word := s.word + 1 }.goto q k else s.goto q (n + 1)
  | .checksumEnd => s.checksumEnd
  | .warnVerify => (if s.verifyReq then s.warn .verifyUnsupported else s).goto q (n + 1)
  | .warnChecksumSkipped => (s.warn .checksumSkipped).goto q (n + 1)
  | .postInit => { s with fsm := { s.fsm with post := .ok } }.goto q (n + 1)
  | .postSet => { s with fsm := { s.fsm with post := s.fsm.ret } }.goto q (n + 1)
  | .extReturn => s.externalEnd
  | .returnStatus =>
    { s with returned := some (.status (statusOr s.st) (decodeStatus (statusOr s.st))) }.goto q (n + 1)
  | .rxClear => { s with rxb := List.replicate s.txb.length 0 }.goto q (n + 1)
  | .bitInit => { s with bit := 0 }.loopTo 0 q (n + 1)
  | .bitNext k =>
    if s.fsm.index + 1 < s.spiBitCount then
      { s with bit := BitVec.ofNat 32 (s.fsm.index + 1) }.loopTo (s.fsm.index + 1) q k
    else s.goto q (n + 1)
  | .loadPoll => (s.loadSpi [s.fsm.spi.cmd, 0] s.fsm.spi).goto q (n + 1)
  | .replyBytes => { s with spiReply := some (.bytes s.replyBytes) }.returnOutcome .ok
  | .waitNext k => s.waitNext q k

/-- The move to make where the step pointer is at no transport operation; a clocked wait of count 0 is none (R178). -/
def State.moved? (s : State) : Option State :=
  match s.pc with
  | .idle => none
  | .at q n =>
    match microAt q n with
    | some (.ctl c) => some (s.move q n c)
    | some (.op (.clkFor d)) =>
      if clockCount s.xport.freq (s.delayUs d) = 0 then some (s.goto q (n + 1)) else none
    | _ => none

/-- At most so many moves. -/
def State.settleIn : Nat → State → State
  | 0, s => s
  | k + 1, s =>
    match s.moved? with
    | none => s
    | some t => State.settleIn k t

/-- More moves than can follow one another without a transport operation, for the callers there are. -/
def State.moveBound (s : State) : Nat := 16 * (s.callers.length + 1)

/-- The step pointer moves until it names a transport operation, or the external algorithm's step, or is IDLE. -/
def State.settled (s : State) : State := State.settleIn s.moveBound s

/-- The step pointer moves to the next step of its sequence (R34). -/
def Pc.next : Pc → Pc
  | .idle => .idle
  | .at q n => .at q (n + 1)

/-- A transport operation is completed: the step pointer advances by one step, or as the sequence directs (R34). -/
def State.advance (s : State) : State := State.settled { s with pc := s.pc.next }

/-- A host operation starts at the first step of its sequence (R34); no value is returned yet. -/
def State.start (s : State) (q : Seq) : State :=
  State.settled { s with pc := .at q 0, callers := [], returned := none }

/-- A request of the external algorithm starts its sequence, at whose end the algorithm runs on (R296); no value is
returned yet. -/
def State.startSpi (s : State) (q : Seq) : State :=
  State.settled { s with pc := .at q 0, callers := ⟨.externalFlash, algorithmStep, false⟩ :: s.callers, spiReply := none }

end Sys2Proof.Machine
end

