-- ==== Sys2Proof/Machine/HostOps.lean ====
section
/-! DEFINITION. The meanings of the four host requests (47_host_interface.md): each is refused, or ends with a ConfigError, or
starts its sequence at the first step (R34). -/

namespace Sys2Proof.Machine

/-- FILETYPE_OK(file type, MODE, EXT_SEL), a parameter: as the parameters list it, free otherwise (R342, log 16). -/
def filetypeOk (p : Params) (ft : Text) (m : ProgMode) (ext : Bool) : Bool :=
  ((p.fileTypeRuled.find? fun r => r.1 == (ft, m, ext)).map (·.2)).getD (Config.fileTypeFree ft m ext)

/-- SETUP_CHECKS: the code of the first check that fails, in the order of R342; none when all pass. `m` is MODE. -/
def setupFailure (s : State) (m : ProgMode) : Option Code :=
  if s.mcuImgSel && !s.var.mcuAllowed then some .configMcuDevice
  else if !filetypeOk s.cfg s.bs.fileType m s.extSel then some .configFiletype
  else if m == .nonVolatile && !s.extSel && !s.var.flashWrite then some .configFlashUnsupported
  else if !s.bs.parses || !s.bs.image.ok then some .configImage
  else if s.mcuImgSel && !s.mcu.ok then some .configImage
  else none

/-- Path selection, after the forcing of EXT_SEL (R341). -/
def pathOf (m : ProgMode) (ext : Bool) : Seq :=
  match m with
  | .volatile => .programVolatile
  | .nonVolatile => if ext then .externalFlash else .programFlash

/-- What program writes before its setup checks: OFFSET, UNPROTECT, and EXT_SEL where the variant forces it (R204, R340);
nothing is returned yet. -/
def State.latchProgram (s : State) (offset : Word) (unprotect : Bool) : State :=
  { s with offset := offset, unprotect := unprotect, extSel := s.extSel || s.var.extFlashForced, returned := none }

/-- program(offset, unprotect_flash_flag) (R340): refused with MODE unset (R36, R373); a setup check that fails ends it
with a ConfigError (R342, R361); otherwise the sequence of the selected path starts at its first step (R34, R341). -/
def execProgram (offset : Word) (unprotect : Bool) (s : State) : Host.Outcome State Fault Refusal :=
  match s.mode with
  | none => .next { s.refuse Req.program with returned := some .refused }
  | some m =>
    match setupFailure (s.latchProgram offset unprotect) m with
    | some c => .next ((s.latchProgram offset unprotect).raiseConfigError c)
    | none =>
      .next ((s.latchProgram offset unprotect).start (pathOf m (s.latchProgram offset unprotect).extSel))

/-- reset() (R345): the sequence OP_RELOAD, OP_NOOP starts; it ends with RESULT Ok and no status check. -/
def execReset (s : State) : Host.Outcome State Fault Refusal := .next (s.start .resetDevice)

/-- read_id_code() (R346): a fresh identity read starts; its value is returned, ID and VAR stay (R35). -/
def execReadIdCode (s : State) : Host.Outcome State Fault Refusal := .next (s.start .readIdCode)

/-- read_status_register() (R347): one status read into ST starts; the word and its flags are returned. -/
def execReadStatusRegister (s : State) : Host.Outcome State Fault Refusal := .next (s.start .readStatusRegister)

end Sys2Proof.Machine
end

