-- ==== Sys2Proof/Machine/SpiRequests.lean ====
section
/-! DEFINITION. The meanings of the two SPI requests (46_spi_master.md): each is refused, or starts its sequence. -/

namespace Sys2Proof.Machine

/-- The operands of a transfer's transaction; only `rd` is used (R312). -/
def transferCall (cmd : Byte) (rl : Option Word) : SpiCall :=
  { cmd := cmd, mask := 0, expected := 0, bound := 0, verbose := false, rd := rl.isSome }

/-- transfer(command, write_bytes?, read_length?) (R312): refused when both lengths are given and differ (R313);
otherwise one transaction starts, which returns the received payload when a read length is given, else no byte. -/
def execTransfer (cmd : Byte) (tx : Option (List Byte)) (rl : Option Word) (s : State) :
    Host.Outcome State Fault Refusal :=
  .next
    (if lengthsDisagree tx rl then { s.refuse Req.transfer with spiReply := some .refused }
     else (s.loadSpi (transmitBytes cmd tx rl) (transferCall cmd rl)).startSpi .spiTransfer)

/-- wait_until(command, mask, expected_value, timeout, verbose) (R330): refused with bound 0 (R331); otherwise its first
transaction starts. -/
def execWaitUntil (cmd mask expected : Byte) (bound : Word) (verbose : Bool) (s : State) :
    Host.Outcome State Fault Refusal :=
  .next
    (if bound = 0 then { s.refuse Req.waitUntil with spiReply := some .refused }
     else
      (s.loadSpi [cmd, 0] { cmd := cmd, mask := mask, expected := expected, bound := bound, verbose := verbose,
                            rd := true }).startSpi .spiWait)

end Sys2Proof.Machine
end

