-- ==== Sys2Proof/Machine/Dispatch.lean ====
section
/-! DEFINITION. The dispatch: one arm for each instruction, each one call of its meaning. -/

namespace Sys2Proof.Machine

/-- The meaning of an instruction. -/
def exec (i : Instr) (s : State) : Host.Outcome State Fault Refusal :=
  match i with
  | .opNoop => Sys2Proof.Machine.execOpNoop s
  | .opEraseSram => Sys2Proof.Machine.execOpEraseSram s
  | .opFinalize2 => Sys2Proof.Machine.execOpFinalize2 s
  | .opXferDone => Sys2Proof.Machine.execOpXferDone s
  | .opFinalize1 => Sys2Proof.Machine.execOpFinalize1 s
  | .opReadIdcode => Sys2Proof.Machine.execOpReadIdcode s
  | .opInitAddr => Sys2Proof.Machine.execOpInitAddr s
  | .opReadUsercode => Sys2Proof.Machine.execOpReadUsercode s
  | .opEnable => Sys2Proof.Machine.execOpEnable s
  | .opSpiPassthrough => Sys2Proof.Machine.execOpSpiPassthrough s
  | .opXferWrite => Sys2Proof.Machine.execOpXferWrite s
  | .opDisable => Sys2Proof.Machine.execOpDisable s
  | .opReload => Sys2Proof.Machine.execOpReload s
  | .opExtFinal => Sys2Proof.Machine.execOpExtFinal s
  | .opReadStatus => Sys2Proof.Machine.execOpReadStatus s
  | .opFlashProgram => Sys2Proof.Machine.execOpFlashProgram s
  | .opFlashErase => Sys2Proof.Machine.execOpFlashErase s
  | .program o u => Sys2Proof.Machine.execProgram o u s
  | .reset => Sys2Proof.Machine.execReset s
  | .readIdCode => Sys2Proof.Machine.execReadIdCode s
  | .readStatusRegister => Sys2Proof.Machine.execReadStatusRegister s
  | .transfer c tx rl => Sys2Proof.Machine.execTransfer c tx rl s
  | .waitUntil c m e b v => Sys2Proof.Machine.execWaitUntil c m e b v s

end Sys2Proof.Machine
end

