-- ==== Sys2Proof/Machine/Fetch.lean ====
section
/-! DEFINITION. Where the engine's next instruction or step comes from: the host's port while IDLE, the SPI port while the
external algorithm runs, the sequence in progress otherwise (R33, R93, R310, R344). -/

namespace Sys2Proof.Machine

/-- What the next step has to do. -/
inductive Fetched where
  /-- Nothing: no host input while IDLE, or the external algorithm silent (R299). -/
  | waiting
  /-- A host input that is no request. -/
  | hostWrite (w : HostInput)
  /-- An instruction's bytes at a port. -/
  | bytes (p : Port) (bs : List Byte)
  /-- A command of the sequence in progress, by its name. -/
  | command (c : Cmd)
  /-- The latch clocks of the command before. -/
  | latch
  /-- Another transport operation of the sequence in progress. -/
  | wire (w : Wire)
  /-- The external algorithm's end. -/
  | algorithmEnd (ok : Bool)
  /-- The step pointer is at no transport operation: it moves on. No step leaves it so. -/
  | unsettled
  /-- The step pointer names no step. -/
  | outside
  deriving DecidableEq, Repr

/-- At IDLE: the host's first input (R344, R350). -/
def fetchHost : List HostInput → Fetched
  | [] => .waiting
  | .request bs :: _ => .bytes .host bs
  | w :: _ => .hostWrite w

/-- While the external algorithm runs: its first input (R296). -/
def fetchExt : List ExtInput → Fetched
  | [] => .waiting
  | .request bs :: _ => .bytes .spi bs
  | .finish ok :: _ => .algorithmEnd ok

/-- What the step pointer and the ports give to do. -/
def State.fetch (s : State) : Fetched :=
  match s.pc with
  | .idle => fetchHost s.hostIn
  | .at q n =>
    match microAt q n with
    | none => .outside
    | some (.cmd c) => .command c
    | some (.cmdByte b) => .bytes .command [b]
    | some .latch => .latch
    | some (.op w) => .wire w
    | some (.ctl _) => .unsettled
    | some .algorithm => fetchExt s.extIn

/-- The host's first input is taken. -/
def State.popHost (s : State) : State := { s with hostIn := s.hostIn.tail }

/-- The external algorithm's first input is taken. -/
def State.popExt (s : State) : State := { s with extIn := s.extIn.tail }

/-- The instruction at a port is taken: a request leaves its port, a command's step is passed (R34). -/
def State.consume (s : State) : Port → State
  | .command => { s with pc := s.pc.next }
  | .host => s.popHost
  | .spi => s.popExt

/-- A host input that is no request: a configuration write (R350), or a bitstream attached (R395). -/
def State.hostWrites (s : State) : HostInput → State
  | .request _ => s
  | .setMode m => { s with mode := some m }
  | .setExtSel v => { s with extSel := v }
  | .setMcuImg none => { s with mcuImgSel := false }
  | .setMcuImg (some im) => { s with mcuImgSel := true, mcu := im }
  | .setVerifyReq v => { s with verifyReq := v }
  | .attach b => { s with bs := b }

/-- The external algorithm has ended with OK or FAIL; the sequence goes on (R290, R296). -/
def State.endAlgorithm (s : State) (ok : Bool) : State :=
  State.advance { s.popExt with fsm := { s.fsm with algoOk := ok } }

/-- `s` with the bytes of an instruction placed at a port so that the next step takes them: at the host's port with the
engine IDLE; at the SPI port with the engine at the algorithm's step; a command as the first step of `CMD op` (R121), with
the default IR values, in which the opcode table's numbers are written (log 1, log 20). -/
def State.placeBytes (s : State) (p : Port) (bs : List Byte) : State :=
  match p with
  | .command =>
    { s with pc := .at (.single (bs.headD 0)) 0, callers := [], cfg := { s.cfg with op := OpCodes.table } }
  | .host => { s with pc := .idle, callers := [], hostIn := .request bs :: s.hostIn }
  | .spi => { s with pc := .at .externalFlash algorithmStep, callers := [], extIn := .request bs :: s.extIn }

end Sys2Proof.Machine
end

