-- ==== Sys2Proof/Machine/Sequencer.lean ====
section
/-! DEFINITION. What each transport operation of a sequence does, apart from the two of a command (R33, R34). -/

namespace Sys2Proof.Machine

/-- READ_STATUS's capture: ST takes the value (R176). -/
def State.readSt (s : State) : State := { s.captureWord with st := some s.answerWord }

/-- The user-code read's capture: UC takes the value (R278). -/
def State.readUc (s : State) : State := { s.captureWord with uc := some s.answerWord }

/-- read_id_code's capture: the value is returned; ID and VAR stay (R35, R346). -/
def State.readReturn (s : State) : State := { s.captureWord with returned := some (.idCode s.answerWord) }

/-- Construction's capture: ID, the variant resolved from it, EXT_SEL (R391, R200). -/
def State.captureId (s : State) : State :=
  { s.captureWord with
      id := s.answerWord, var := resolve s.cfg s.answerWord,
      extSel := (resolve s.cfg s.answerWord).extFlashForced }

/-- The end state of chunk `j`: RUN_TEST_IDLE for the last, SHIFT_DR for every other (R104, R234). -/
def chunkStop (p : Params) (im : Image) (j : Nat) : TapState :=
  if j + 1 = chunkCount p im then .runTestIdle else .shiftDR

/-- The shift of the chunk in hand (R234); the image is read by MemRead, whose range R70 defines. -/
def State.chunkShift (s : State) : Except Fault State :=
  match s.bs.image.memRead (s.fsm.index * s.cfg.chunkBytes) (chunkSize s.cfg s.bs.image s.fsm.index) with
  | none => .error (.memReadOutOfRange (s.fsm.index * s.cfg.chunkBytes) (chunkSize s.cfg s.bs.image s.fsm.index))
  | some out =>
    .ok (s.shiftDR out (8 * chunkSize s.cfg s.bs.image s.fsm.index) (chunkStop s.cfg s.bs.image s.fsm.index))

/-- The transport operation of a step, and what the engine takes from it. -/
def State.perform (s : State) : Wire → Except Fault State
  | .readSt => .ok s.readSt
  | .readUc => .ok s.readUc
  | .captureId => .ok s.captureId
  | .readReturn => .ok s.readReturn
  | .setTap t => .ok (s.setTap t)
  | .setFreq hz => .ok (s.setFreq hz)
  | .flush => .ok s.flush
  | .sleep us => .ok (s.sleep us)
  | .clkFor d => .ok (s.clockFor (s.delayUs d))
  | .burst => .ok (s.toggle burstWidth)
  | .holdState => .ok (s.setTap s.cfg.eraseHoldState)
  | .chunkShift => s.chunkShift
  | .checksumShift => .ok (s.shiftDR (checksumWord s.bs.checksum) 32 .runTestIdle)
  | .addrShift => .ok (s.shiftDR (addressWord s.pageAddr) 32 .runTestIdle)
  | .wordShift => .ok (s.shiftDR (pageWord s.curPage s.word.toNat) 32 .runTestIdle)
  | .bscanStart => .ok (s.bscan false false false)
  | .bscanLow => .ok (s.bscan false false s.dataIn)
  | .bscanHigh => .ok s.clockHigh
  | .bscanEnd => .ok (s.bscan true false false)
  | .encBState => .ok (s.setTap s.cfg.encBState)
  | .encBShift => .ok s.passthroughShift

/-- A step of a sequence: its transport operation, then the step pointer advances (R34). -/
def wireStep (w : Wire) (s : State) : Host.Outcome State Fault Refusal :=
  match s.perform w with
  | .ok t => .next t.advance
  | .error f => .fault f

end Sys2Proof.Machine
end

