-- ==== Sys2Proof/Machine/Engine.lean ====
section
/-! DEFINITION. One step of the engine, of its host, or of the external algorithm (00_scope.md R10). -/

namespace Sys2Proof.Machine

/-- One step of a party other than the transport (R10, R34): with nothing to do the state stays; a host input that is no
request is taken; an instruction at a port is decoded and run; a command of the sequence in progress is run; its latch
clocks, or another transport operation, are issued, and the step pointer advances. -/
def engineStep (s : State) : Host.Outcome State Fault Refusal :=
  match s.fetch with
  | .waiting => .next s
  | .hostWrite w => .next (s.popHost.hostWrites w)
  | .bytes p bs =>
    match decode s.cfg.op p bs with
    | .error e => .refused (.undecodable p e)
    | .ok (i, _) => exec i (s.consume p)
  | .command c => exec c.instr (s.consume .command)
  | .latch => .next s.latchCommand.advance
  | .wire w => wireStep w s
  | .algorithmEnd ok => .next (s.endAlgorithm ok)
  | .unsettled => .next s.settled
  | .outside => .fault .pcOutsideSequence

end Sys2Proof.Machine
end

