-- ==== Sys2Proof/Machine/Step.lean ====
section
/-! DEFINITION. One step of the machine, and the placing of an instruction where the next step fetches it. -/

namespace Sys2Proof.Machine

/-- One step of the machine: the transport performs an operation of its queue, when it is the one to move; else the engine
makes its step (R10, log 6). -/
def step (s : State) : Host.Outcome State Fault Refusal :=
  if s.xport.moves then .next (s.onXport Transport.perform) else engineStep s

/-- `s` with a table word where the next step fetches: a command as the one step of the sequence `CMD op` (R121); a host
request as the host's first input, the engine idle; an SPI request as the external algorithm's first input, the engine at
the algorithm's step of ExternalFlash (log 2, log 20). The queue counts as performed, so that the engine moves next. -/
def State.withFetchWord (s : State) (nbits w : Nat) : State :=
  (s.onXport Transport.drainAll).placeBytes (tablePort (tableBytes nbits w)) (tableBytes nbits w)

end Sys2Proof.Machine
end

