-- ==== Sys2Proof/Safety.lean ====
section
/-! DEFINITION. What a safe run is, in the terms the statements use: the control of the sequencer, the operations on the wire,
the memory's canonical form, the registers' standing relations, and runs. -/

namespace Sys2Proof.Machine

/-! Outcomes and runs. -/

/-- The answer is a fault. -/
def faults (o : Host.Outcome State Fault Refusal) : Bool :=
  match o with
  | .fault _ => true
  | _ => false

/-- `k` steps of a step function, stopping at the first fault or refusal. -/
def stepsOf (f : State → Host.Outcome State Fault Refusal) : Nat → State → Host.Outcome State Fault Refusal
  | 0, s => .next s
  | k + 1, s =>
    match f s with
    | .next t => stepsOf f k t
    | .fault r => .fault r
    | .refused r => .refused r

/-- `k` steps of the machine. -/
def runSteps (k : Nat) (s : State) : Host.Outcome State Fault Refusal := stepsOf step k s

/-- `k` steps of the engine and its two clients, the transport making none of its own. -/
def engineSteps (k : Nat) (s : State) : Host.Outcome State Fault Refusal := stepsOf engineStep k s

/-- `s` with `p` operations of its queue performed on the wire (R53). -/
def State.withPerformed (s : State) (p : Nat) : State := s.onXport fun x => { x with performed := p }

/-! The sequencer's control (R33, R34, R371). -/

/-- The sequences a host request starts (R341, R345, R346, R347). -/
def Seq.isHostLevel : Seq → Bool
  | .programVolatile | .programFlash | .externalFlash | .resetDevice | .readIdCode | .readStatusRegister => true
  | _ => false

/-- The sequences a request of the external algorithm starts (R312, R330). -/
def Seq.isSpiLevel : Seq → Bool
  | .spiTransfer | .spiWait => true
  | _ => false

/-- The two encodings of a transaction (R311). -/
def Seq.isEncoding : Seq → Bool
  | .transferA | .transferB => true
  | _ => false

/-- A frame stands right behind a call of `q` in its sequence, with the call's treatment of a Fatal; or, for a request of the
external algorithm, at the algorithm's step. -/
def Frame.callsSeq (f : Frame) (q : Seq) : Bool :=
  (decide (1 ≤ f.step) && decide (f.step < (rom f.seq).length) &&
    (microAt f.seq (f.step - 1) == some (.ctl (.call q f.passFatal))
      || microAt f.seq (f.step - 1) == some (.ctl .callEncoding) && q.isEncoding && f.passFatal))
  || (f == ⟨.externalFlash, algorithmStep, false⟩ && q.isSpiLevel)

/-- The callers of `q` form a chain of calls that ends at a sequence of a host operation. -/
def chainOk (q : Seq) : List Frame → Bool
  | [] => q.isHostLevel
  | f :: fs => f.callsSeq q && chainOk f.seq fs

/-- The step pointer is IDLE with no caller, or names a step of a sequence that was called from a host operation. -/
def State.controlOk (s : State) : Bool :=
  match s.pc with
  | .idle => s.callers.isEmpty
  | .at q n => decide (n < (rom q).length) && chainOk q s.callers

/-- The step pointer is IDLE, at a transport operation, or at the external algorithm's step: no `if`, loop, call or return
stands at it (R33, R34). -/
def State.atRest (s : State) : Bool := s.moved?.isNone

/-! The operations on the wire. -/

/-- Every IR shift is followed at once by the 5 latch clocks (R173, HZ1). -/
def latched : List TOp → Bool
  | [] => true
  | .ir _ :: .clk n :: rest => n == latchClocks && latched (.clk n :: rest)
  | .ir _ :: _ => false
  | _ :: rest => latched rest

/-- An IR value of the command table (R116). -/
def inTable (o : OpCodes) : TOp → Bool
  | .ir op => (decodeCommandByte o op).isSome
  | _ => true

/-- The step pointer is at a command's latch clocks. -/
def State.atLatch (s : State) : Bool :=
  match s.pc with
  | .idle => false
  | .at q n => microAt q n == some .latch

/-- The operations issued without an IR shift whose latch clocks are the next step. -/
def State.settledOps (s : State) : List TOp := if s.atLatch then s.xport.issued.dropLast else s.xport.issued

/-- The last operation issued is an IR shift. -/
def endsInIr (ops : List TOp) : Bool :=
  match ops.getLast? with
  | some (.ir _) => true
  | _ => false

/-- What holds of the issued operations at every step boundary: every IR shift has its latch clocks at once, but one whose
latch clocks are the next step; every one is of the command table; no more operations are performed than went into the queue (R53, R116,
R173). -/
def State.wireOk (s : State) : Bool :=
  latched s.settledOps && (endsInIr s.xport.issued == s.atLatch) && s.xport.issued.all (inTable s.cfg.op)
    && decide (s.xport.performed ≤ s.xport.queued.length)

/-! Memory. -/

/-- The images a host input carries are in canonical form. -/
def HostInput.memOk : HostInput → Bool
  | .setMcuImg (some im) => im.mem.wf
  | .attach b => b.image.mem.wf
  | _ => true

/-- Every image of the machine, and every one waiting at the host's port, is in canonical form. -/
def State.memOk (s : State) : Bool := s.bs.image.mem.wf && s.mcu.mem.wf && s.hostIn.all HostInput.memOk

/-! What holds while a host operation runs. -/

/-- The sequence of the host operation in progress. -/
def State.root (s : State) : Option Seq :=
  match s.pc with
  | .idle => none
  | .at q _ => some ((s.callers.getLast?.map Frame.seq).getD q)

/-- A program operation runs. -/
def State.programming (s : State) : Bool :=
  s.root == some .programVolatile || s.root == some .programFlash || s.root == some .externalFlash

/-- What the setup checks leave true of the images and of MODE while program runs (R342, R344). -/
def State.setupOk (s : State) : Bool :=
  s.mode.isSome && s.bs.parses && s.bs.image.ok && (!s.mcuImgSel || s.mcu.ok)

/-- At a shift of the stream the index is one of its chunks, and CHUNK shows it (R234). -/
def State.chunkOk (s : State) : Bool :=
  if s.pc = .at .loadSram 6 then
    decide (s.fsm.index < chunkCount s.cfg s.bs.image) && s.chunk == BitVec.ofNat 32 s.fsm.index
  else true

/-- The entries of WriteImage behind the start of its loop. -/
def inPageLoop (q : Seq) (n : Nat) : Bool := q == .writeImage && decide (1 ≤ n)

/-- While the pages of an image are written PAGE shows the loop's index (R262, log 23). -/
def State.pageOk (s : State) : Bool :=
  !((match s.pc with
     | .idle => false
     | .at q n => inPageLoop q n) || s.callers.any fun f => inPageLoop f.seq f.step)
    || s.page == BitVec.ofNat 32 s.fsm.index

/-- The invariant of runs: legal control, parameters within the spec's constraints, the setup facts while program runs, a
legal chunk and page, an attempt within its bound. -/
def State.runOk (s : State) : Bool :=
  s.controlOk && s.cfg.wf && (!s.programming || s.setupOk) && s.chunkOk && s.pageOk
    && decide (s.attempt.toNat ≤ eraseAttempts)

/-! ST is read only after a status read (R54). -/

/-- A status read stands before step `n` of a sequence. -/
def stKnown (q : Seq) (n : Nat) : Bool := ((rom q).take n).any (· == .op .readSt)

/-- An entry that uses ST. -/
def Ctl.usesStatus : Ctl → Bool
  | .retDone _ _ | .requireProgrammable | .attemptNext _ | .branch .validClear _ | .pollNext _ _ _ _
  | .returnStatus => true
  | _ => false

/-- ST holds a word at every point behind a status read, in the sequence in progress and in its callers. -/
def State.statusOk (s : State) : Bool :=
  (match s.pc with
   | .idle => true
   | .at q n => !stKnown q n || s.st.isSome)
  && s.callers.all fun f => !stKnown f.seq f.step || s.st.isSome

/-! The commands' device effects (R174, R180 to R196). -/

/-- The device effect of each command. -/
def effectOf : Cmd → Option DeviceEffect
  | .noop => none
  | .eraseSram => some .startSramErase
  | .finalize2 => some .endLoad
  | .xferDone => none
  | .finalize1 => none
  | .readIdcode => some .selectIdcode
  | .initAddr => some .setLoadStart
  | .readUsercode => some .selectUsercode
  | .enable => some .enterEditMode
  | .spiPassthrough => some .connectSpiFlash
  | .xferWrite => some .streamToSram
  | .disable => some .leaveEditMode
  | .reload => some .reload
  | .extFinal => some .exitSequence
  | .readStatus => some .selectStatus
  | .flashProgram => some .pageFollows
  | .flashErase => some .eraseFlash

/-- The command whose IR shift stands before step `n` of a sequence, where there is one. -/
def cmdBefore (o : OpCodes) (q : Seq) (n : Nat) : Option Cmd :=
  match microAt q (n - 1) with
  | some (.cmd c) => some c
  | some (.cmdByte b) => decodeCommandByte o b
  | _ => none

/-- At a command's latch clocks its device effect, and no other, waits for them; at every other step none does (R173). -/
def State.latchOk (s : State) : Bool :=
  match s.pc with
  | .idle => s.fsm.latch.isNone
  | .at q n =>
    if microAt q n == some .latch then
      (cmdBefore s.cfg.op q n).any fun c => s.fsm.latch == effectOf c
    else s.fsm.latch.isNone

/-! Gated commands (R375). -/

/-- Configuration edit mode as the commands issued so far ask for it (R188, R191): on after an enter, off after a leave. -/
def editAfter (on : Bool) : List DeviceEffect → Bool
  | [] => on
  | .enterEditMode :: es => editAfter true es
  | .leaveEditMode :: es => editAfter false es
  | _ :: es => editAfter on es

/-- The effects of the commands that configuration edit mode gates (R375). -/
def DeviceEffect.gated : DeviceEffect → Bool
  | .startSramErase | .setLoadStart | .streamToSram | .eraseFlash | .pageFollows => true
  | _ => false

/-- No gated effect stands where edit mode is off. -/
def gatesKept (on : Bool) : List DeviceEffect → Bool
  | [] => true
  | e :: es => (!e.gated || on) && gatesKept (editAfter on [e]) es

/-- The steps of a sequence from behind its Enable to its last gated command's latch clocks, and the steps of Enable behind
its own command's: edit mode is on there. -/
def needsEdit : Seq → Nat → Bool
  | .enable, n => decide (2 ≤ n)
  | .eraseSram, n => decide (1 ≤ n ∧ n ≤ 2)
  | .loadSram, n => decide (1 ≤ n ∧ n ≤ 4)
  | .eraseAttempt, n => decide (1 ≤ n ∧ n ≤ 2)
  | .writePage, n => decide (3 ≤ n ∧ n ≤ 4)
  | _, _ => false

/-- Every gated command so far took effect in edit mode, and edit mode is on where the next gated command needs it. -/
def State.gateOk (s : State) : Bool :=
  s.latchOk && gatesKept false s.device &&
  (match s.pc with
   | .idle => true
   | .at q n => !needsEdit q n || editAfter false s.device)

/-! The instruction register (R175, R176, R318, R405). -/

/-- The commands of which one is in the instruction register at a step: a status read's its command, a user-code read's its
command, an identity read's its command, the external algorithm's step what the exit sequence or Encoding B left; at a
command's latch clocks that command. -/
def irAllowed (o : OpCodes) (q : Seq) (n : Nat) : Option (List Cmd) :=
  match microAt q n with
  | some .latch => (cmdBefore o q n).map ([·])
  | some (.op .readSt) => some [.readStatus]
  | some (.op .readUc) => some [.readUsercode]
  | some (.op .captureId) | some (.op .readReturn) => some [.readIdcode]
  | some (.op .encBState) | some (.op .encBShift) => some [.spiPassthrough]
  | some .algorithm => some [.extFinal, .noop, .spiPassthrough]
  | some (.ctl (.jump _)) => some [.extFinal]
  | _ => none

/-- The instruction register holds a command that step `n` of `q` relies on. -/
def State.irOkAt (s : State) (q : Seq) (n : Nat) : Bool :=
  match irAllowed s.cfg.op q n with
  | some l => l.any fun c => s.xport.ir == s.cfg.op.code c
  | none => true

/-- The instruction register holds a command that the step in progress, and every step a caller resumes at, relies on. -/
def State.irOk (s : State) : Bool :=
  (match s.pc with
   | .idle => true
   | .at q n => s.irOkAt q n)
  && s.callers.all fun f => s.irOkAt f.seq f.step

/-! The frequency (R291, R402). -/

/-- Behind its first step ProgramFlash runs at 2.5 MHz and ExternalFlash at 10 MHz, the sequences they call included. -/
def State.freqOk (s : State) : Bool :=
  (s.root != some .programFlash || s.pc == .at .programFlash 0 || s.xport.freq == flashProgClockHz)
    && (s.root != some .externalFlash || s.pc == .at .externalFlash 0 || s.xport.freq == extFlashClockHz)

end Sys2Proof.Machine
end

