-- ==== Sys2Proof/Certificates/Slice0/Obligations.lean ====
section
/-! DEFINITION. The statements for the provers, and the terms they are said in: the operation streams of the spec written out
(30_encoding.md R120, R121), what they leave at the transport, runs, the spec's tables, and what a statement compares. -/

namespace Sys2Proof.Claims

open Sys2Proof.Machine

/-! Frames and runs. -/

/-- Every byte of both images reads as before. -/
def imagesKept (s t : State) : Prop :=
  ∀ a, t.bs.image.mem.read a = s.bs.image.mem.read a ∧ t.mcu.mem.read a = s.mcu.mem.read a

/-- It is not the transport that moves next (log 6). -/
def engineTurn (s : State) : Prop := s.xport.moves = false

/-- A run of the machine leads from `s` to `t`, up to how much of its queue the transport has performed by then (R53); every
byte of both images reads in `t` as in `s`. -/
def reaches (s t : State) : Prop := (∃ k p, runSteps k s = .next (t.withPerformed p)) ∧ imagesKept s t

/-! What operations leave at the transport (R42, R170). -/

/-- What the transport holds when one more operation is issued (that TAP state, instruction register and frequency change then,
and not when it is performed, is the model's choice, log 30): the operation at the end; the frequency of a `FREQ`; the TAP
state the operation ends in; the instruction register of an `IR`; one capture fewer to come where its bits are used. -/
def afterOp (x : Transport) (op : TOp) : Transport where
  freq := match op with
    | .freq hz => hz
    | _ => x.freq
  tap := match op with
    | .ir _ => .runTestIdle
    | .clk n => toggledTap x.tap n
    | .dr _ _ stop _ => stop
    | .state t => t
    | _ => x.tap
  ir := match op with
    | .ir b => b
    | _ => x.ir
  issued := x.issued ++ [op]
  performed := x.performed
  replies := match op with
    | .dr _ _ _ true => x.replies.tail
    | _ => x.replies
  draws := match op with
    | .dr _ _ _ true => x.draws + 1
    | _ => x.draws

/-- What the transport holds when a stream of operations has been issued. -/
def afterOps (x : Transport) (ops : List TOp) : Transport := ops.foldl afterOp x

/-- The transport as the `k`-th capture from now on finds its script. -/
def later (x : Transport) (k : Nat) : Transport := { x with replies := x.replies.drop k, draws := x.draws + k }

/-- The byte that the `k`-th capture from now on gives, for captures of 8 bits. -/
def capturedByte (x : Transport) (k : Nat) : Byte := ((later x k).answer 8).getD 0 0

/-! Operation streams (R120, R121). -/

/-- `CMD c`. -/
def cmdOps (o : OpCodes) (c : Cmd) : List TOp := [.ir (o.code c), .clk 5]

/-- `READ c`. -/
def readOps (o : OpCodes) (c : Cmd) : List TOp :=
  cmdOps o c ++ [.dr 32 [0xFF, 0xFF, 0xFF, 0xFF] .runTestIdle true]

/-- `CLKUS us` at a frequency: nothing when the count is 0. -/
def clkUsOps (hz : Nat) (us : Word) : List TOp :=
  if hz * us.toNat / 1000000 = 0 then [] else [.clk (hz * us.toNat / 1000000)]

/-- The device effects of commands, in order (R180 to R196). -/
def effects (cs : List Cmd) : List DeviceEffect := cs.filterMap effectOf

/-- The stream of Enable when its poll matches at its first read (R220). -/
def enableOps (o : OpCodes) : List TOp := cmdOps o .enable ++ readOps o .readStatus

/-- The stream of Disable when its poll matches at its first read (R222). -/
def disableOps (o : OpCodes) : List TOp := cmdOps o .disable ++ cmdOps o .noop ++ readOps o .readStatus

/-- The stream of EraseSRAM when each poll matches at its first read (R226). -/
def eraseSramOps (o : OpCodes) : List TOp :=
  enableOps o ++ cmdOps o .eraseSram ++ cmdOps o .noop ++ readOps o .readStatus ++ cmdOps o .xferDone
    ++ cmdOps o .noop ++ disableOps o ++ readOps o .readStatus

/-- The commands of EraseSRAM when each poll matches at its first read. -/
def eraseSramCmds : List Cmd :=
  [.enable, .readStatus, .eraseSram, .noop, .readStatus, .xferDone, .noop, .disable, .noop, .readStatus, .readStatus]

/-- The return of EraseSRAM by its last status (R226). -/
def eraseSramResult (w : Word) : SeqOutcome := if w.getLsbD 13 then .advisory .sramEraseDoneSet w else .ok

/-- The number of chunks of the stream: ceil(LEN / CHUNK_BYTES) (R104). -/
def chunks (s : State) : Nat := (s.bs.image.bitLen / 8 + s.cfg.chunkBytes - 1) / s.cfg.chunkBytes

/-- The bytes of chunk `j` (R104). -/
def chunkBytesOf (s : State) (j : Nat) : List Byte :=
  (List.range (min s.cfg.chunkBytes (s.bs.image.bitLen / 8 - j * s.cfg.chunkBytes))).map fun i =>
    s.bs.image.mem.read (j * s.cfg.chunkBytes + i)

/-- The stream of the SRAM load (R104, R234). -/
def streamOps (s : State) : List TOp :=
  (List.range (chunks s)).map fun j =>
    .dr (8 * (chunkBytesOf s j).length) (chunkBytesOf s j) (if j + 1 = chunks s then .runTestIdle else .shiftDR) false

/-- The checksum word's shift, where the checksum algorithm is known (R82, R234). -/
def checksumOps (s : State) : List TOp :=
  if s.var.checksumKnown then
    [.dr 32 [s.bs.checksum.extractLsb' 0 8, s.bs.checksum.extractLsb' 8 8, 0, 0] .runTestIdle false]
  else []

/-- The stream of LoadSRAM when each poll matches at its first read (R234). -/
def loadSramOps (s : State) : List TOp :=
  enableOps s.cfg.op ++ cmdOps s.cfg.op .initAddr ++ cmdOps s.cfg.op .xferWrite ++ streamOps s
    ++ cmdOps s.cfg.op .finalize1 ++ checksumOps s ++ cmdOps s.cfg.op .finalize2 ++ disableOps s.cfg.op
    ++ readOps s.cfg.op .readStatus

/-- The commands of LoadSRAM when each poll matches at its first read. -/
def loadSramCmds : List Cmd :=
  [.enable, .readStatus, .initAddr, .xferWrite, .finalize1, .finalize2, .disable, .noop, .readStatus, .readStatus]

/-- The return of LoadSRAM by its last status (R234). -/
def loadSramResult (w : Word) : SeqOutcome := if w.getLsbD 13 then .ok else .advisory .loadNotDone w

/-- An Advisory is logged as an error (R226, R234, R250, R266). -/
def advisoryLog : SeqOutcome → List LogEntry
  | .advisory c w => [⟨.error, c, w⟩]
  | .ok => []
  | .fatal _ _ => []

/-- N_BURSTS (R201, R253). -/
def bursts (s : State) : Nat := if s.var.extendedErase then 65 else 1

/-- The stream of an erase attempt when each poll matches at its first read (R252). -/
def eraseAttemptOps (s : State) : List TOp :=
  enableOps s.cfg.op ++ cmdOps s.cfg.op .flashErase ++ [.state .runTestIdle, .state .shiftDR]
    ++ List.replicate (bursts s) (.clk 32)
    ++ (if s.cfg.eraseHoldState = .shiftDR then [] else [.state s.cfg.eraseHoldState])
    ++ clkUsOps s.xport.freq 150000 ++ disableOps s.cfg.op ++ readOps s.cfg.op .readStatus

/-! Images and pages (R110, R262 to R264). -/

/-- An image of the machine. -/
def imageOf (s : State) : ImageSel → Image
  | .main => s.bs.image
  | .mcu => s.mcu

/-- The base page of an image: 0 or MCU_FW_PAGE (R262). -/
def baseOf : ImageSel → Word
  | .main => 0
  | .mcu => 0x380

/-- The number of pages of an image: ceil(LEN / 256) (R110). -/
def pages (s : State) (i : ImageSel) : Nat := ((imageOf s i).bitLen / 8 + 255) / 256

/-- Page `k` of an image, by R110 and R263. -/
def pageOf (s : State) (i : ImageSel) (k : Nat) : List Byte :=
  (List.range 256).map fun j =>
    if baseOf i + BitVec.ofNat 32 k = 0 ∧ j < 4 then
      [s.cfg.autobootSig.b0, s.cfg.autobootSig.b1, s.cfg.autobootSig.b2, s.cfg.autobootSig.b3].getD j 0
    else if 256 * k + j < (imageOf s i).bitLen / 8 then (imageOf s i).mem.read (256 * k + j) else 0xFF

/-- The shift of an address word, least significant byte first (R79). -/
def addrOp (a : Word) : TOp :=
  .dr 32 [a.extractLsb' 0 8, a.extractLsb' 8 8, a.extractLsb' 16 8, a.extractLsb' 24 8] .runTestIdle false

/-- The shift of word `j` of a page, its bytes reversed (R80). -/
def wordOp (pg : List Byte) (j : Nat) : TOp :=
  .dr 32 [pg.getD (4 * j + 3) 0, pg.getD (4 * j + 2) 0, pg.getD (4 * j + 1) 0, pg.getD (4 * j) 0] .runTestIdle false

/-- T_WORD (R201). -/
def tWordOf (s : State) : Word := if s.var.extendedErase then s.cfg.tWordLong else s.cfg.tWord

/-- The stream of page `k` of an image when Enable's poll matches at its first read (R264). -/
def pageOps (s : State) (i : ImageSel) (k : Nat) : List TOp :=
  (if baseOf i + BitVec.ofNat 32 k = 0 then [] else clkUsOps s.xport.freq s.cfg.tPageGap)
    ++ enableOps s.cfg.op ++ cmdOps s.cfg.op .flashProgram ++ [addrOp (baseOf i + BitVec.ofNat 32 k)]
    ++ clkUsOps s.xport.freq s.cfg.tAddr
    ++ (List.range 64).flatMap (fun j => [wordOp (pageOf s i k) j] ++ clkUsOps s.xport.freq (tWordOf s))
    ++ clkUsOps s.xport.freq s.cfg.tPageTrail

/-- The commands of one page when Enable's poll matches at its first read. -/
def pageCmds : List Cmd := [.enable, .readStatus, .flashProgram]

/-- The stream of the image epilogue when Disable's poll matches at its first read (R266). -/
def epilogueOps (o : OpCodes) : List TOp :=
  disableOps o ++ cmdOps o .reload ++ cmdOps o .noop ++ [.flush, .sleep 500000] ++ readOps o .readStatus

/-- The commands of the image epilogue when Disable's poll matches at its first read. -/
def epilogueCmds : List Cmd := [.disable, .noop, .readStatus, .reload, .noop, .readStatus]

/-- The return of the image epilogue, and so of WriteImage, by its last status (R262, R266). -/
def writeResult (w : Word) : SeqOutcome := if w.getLsbD 13 then .ok else .advisory .writeNotDone w

/-- The stream of WriteImage when each poll matches at its first read: the pages in order, one epilogue (R262). -/
def writeImageOps (s : State) (i : ImageSel) : List TOp :=
  (List.range (pages s i)).flatMap (pageOps s i) ++ epilogueOps s.cfg.op

/-- The commands of WriteImage when each poll matches at its first read. -/
def writeImageCmds (s : State) (i : ImageSel) : List Cmd :=
  (List.replicate (pages s i) pageCmds).flatten ++ epilogueCmds

/-- The answers of the device to the reads of a WriteImage whose polls match at their first read: one status for each page,
in which SYSTEM_EDIT is set; Disable's, in which it is clear; the epilogue's last. -/
def writeAnswers (s : State) (i : ImageSel) (as : List Word) (c w : Word) : List (List Byte) → Prop := fun l =>
  l = (as ++ [c, w]).map leBytes ∧ as.length = pages s i ∧ (∀ a ∈ as, a &&& 0x80 = 0x80) ∧ c &&& 0x80 = 0

/-! The checksum check (R278, R279). -/

/-- The user code matches: its low 16 bits are the bitstream's checksum, or all 32 the header's fallback value. -/
def checksumMatch (s : State) (w : Word) : Prop :=
  w.extractLsb' 0 16 = s.bs.checksum ∨ ∃ h, s.bs.headerValue s.cfg.headerChecksumKey = some h ∧ parseHex32 h = some w

/-- `o` is what the checksum check returns for the user code `w`, and `l` what it logs. -/
def checksumAnswer (s : State) (w : Word) (o : SeqOutcome) (l : List LogEntry) : Prop :=
  (checksumMatch s w → o = .ok ∧ l = [⟨.info, .checksumOk, w⟩]) ∧
  (¬ checksumMatch s w → o = .advisory .checksumMismatch w ∧ l = [⟨.error, .checksumMismatch, w⟩])

/-- The character of a hexadecimal digit, in upper or lower case. -/
def hexChar (d : Fin 16 × Bool) : Byte :=
  if d.1.val < 10 then BitVec.ofNat 8 (0x30 + d.1.val)
  else if d.2 then BitVec.ofNat 8 (0x41 + d.1.val - 10) else BitVec.ofNat 8 (0x61 + d.1.val - 10)

/-- The text is an optional prefix and one to eight hexadecimal digits of the value `v` (R279). -/
def isHexText (h : Text) (v : Nat) : Prop :=
  ∃ pre ∈ ([[], [0x30, 0x78], [0x30, 0x58]] : List Text), ∃ ds : List (Fin 16 × Bool),
    1 ≤ ds.length ∧ ds.length ≤ 8 ∧ h = pre ++ ds.map hexChar ∧ v = ds.foldl (fun a d => 16 * a + d.1.val) 0

/-! SPI (46_spi_master.md). -/

/-- The bits of SPI bytes as the line carries them, most significant first (R83). -/
def spiBits (bs : List Byte) : List Bool := bs.flatMap fun b => (List.range 8).map fun j => b.getLsbD (7 - j)

/-- The stream of an Encoding A transaction that sends these bits (R316). -/
def scanA (pm : PinMap) (rd : Bool) (bits : List Bool) : List TOp :=
  [.dr 8 [bscanByte pm false false false] .runTestIdle false]
    ++ bits.flatMap (fun b =>
        [.dr 8 [bscanByte pm false false b] .runTestIdle false, .dr 8 [bscanByte pm false true b] .runTestIdle rd])
    ++ [.dr 8 [bscanByte pm true false false] .runTestIdle false]

/-- The extra bits of an Encoding B shift (R107, R322). -/
def extraBits (s : State) (rd : Bool) : Nat := if rd then s.cfg.encBExtraBits else 0

/-- The stream of an Encoding B transaction that sends these bytes (R322). -/
def scanB (s : State) (rd : Bool) (bs : List Byte) : List TOp :=
  cmdOps s.cfg.op .spiPassthrough ++ [.state s.cfg.encBState,
    .dr (8 * bs.length + extraBits s rd) (bs.map revByte ++ List.replicate ((extraBits s rd + 7) / 8) 0) .runTestIdle rd]

/-- The stream of a transaction in the variant's encoding (R311). -/
def scan (s : State) (rd : Bool) (bs : List Byte) : List TOp :=
  match s.var.spiEncoding with
  | .encA => scanA s.var.pinmap rd (spiBits bs)
  | .encB => scanB s rd bs

/-- Payload byte `i` that Encoding B reassembles from a capture (R322). -/
def payloadB (cap : List Byte) (i : Nat) : Byte :=
  ((revByte (cap.getD (i + 1) 0) &&& 0x7F) <<< 1) ||| (revByte (cap.getD (i + 2) 0) >>> 7)

/-- The payload of a transfer: its write bytes, else zeros for its read length (R112, R312). -/
def payload : Option (List Byte) → Option Word → List Byte
  | some l, _ => l
  | none, some n => List.replicate n.toNat 0
  | none, none => []

/-- The lengths of a transfer, where both are given, agree (R313). -/
def lengthsAgree (tx : Option (List Byte)) (rl : Option Word) : Prop :=
  ∀ l n, tx = some l → rl = some n → n.toNat = l.length

/-- The first payload byte that the `j`-th transaction of one command byte and one read byte receives, all of them issued from
now on one behind another: by Encoding A from the data-out bits of its clock-high captures, most significant first (R319), by
Encoding B from its one capture (R322). -/
def polled (s : State) (j : Nat) : Byte :=
  match s.var.spiEncoding with
  | .encA =>
    (List.range 8).foldl (fun b i => setBitOf b (7 - i)
      ((capturedByte s.xport (16 * j + 8 + i)).getLsbD s.var.pinmap.dout.val)) 0
  | .encB => payloadB ((later s.xport j).answer (16 + s.cfg.encBExtraBits)) 0

/-- The INFO entries of `k` transactions of a verbose wait_until (R330, R377). -/
def waitLog (s : State) (verbose : Bool) (k : Nat) : List LogEntry :=
  if verbose then (List.range k).map fun j => ⟨.info, .spiWait, (polled s j).setWidth 32⟩ else []

/-- The device effects of `k` transactions: Encoding B connects the flash with each. -/
def waitDevice (s : State) (k : Nat) : List DeviceEffect :=
  match s.var.spiEncoding with
  | .encA => []
  | .encB => List.replicate k .connectSpiFlash

/-! Tables. -/

/-- The setup checks in the order of R342: whether each fails, and its code. -/
def setupChecks (s : State) (m : ProgMode) (ext : Bool) : List (Bool × Code) :=
  [(s.mcuImgSel && !s.var.mcuAllowed, .configMcuDevice),
   (!filetypeOk s.cfg s.bs.fileType m ext, .configFiletype),
   (m == .nonVolatile && !ext && !s.var.flashWrite, .configFlashUnsupported),
   (!s.bs.parses || s.bs.image.bitLen == 0 || s.bs.image.bitLen % 8 != 0, .configImage),
   (s.mcuImgSel && (s.mcu.bitLen == 0 || s.mcu.bitLen % 8 != 0), .configImage)]

/-- The default descriptor (R52). -/
def defaultVariant (p : Params) : Variant where
  extendedErase := false
  legacyPins := false
  checksumKnown := true
  pinmap := p.pinmapDefault
  extFlashForced := false
  spiEncoding := .encA
  extExit := .finalOpcode
  mcuAllowed := false
  flashWrite := true

end Sys2Proof.Claims

open Sys2Proof Sys2Proof.Machine Sys2Proof.Claims

/-! ## Encoding -/

/-- The bytes of a well-formed instruction, with any bytes behind them, decode at its port to that instruction and leave
the bytes behind, whatever the IR values of the commands, as long as no two are equal. The layout of a request's operands is
the model's (log 3). -/
def Obligations.DecodeOfEncode : Prop :=
  ∀ (o : OpCodes) (i : Instr), o.distinct = true → i.wf = true → ∀ rest : List Byte,
    decode o i.port (encode o i ++ rest) = .ok (i, rest)

/-- What decodes at a port is the encoding of a well-formed instruction of that port, and no other bytes decode to it. -/
def Obligations.DecodeOnlyEncodings : Prop :=
  ∀ (o : OpCodes) (p : Port) (bs rest : List Byte) (i : Instr), decode o p bs = .ok (i, rest) →
    i.port = p ∧ i.wf = true ∧ bs = encode o i ++ rest

/-- The command table of R114 with the default IR values (log 1): a byte is a command exactly when the table has it; and a few
request words of R131, written out in the model's layout (log 3), decode to what they stand for, words of the opcode table
with operands of zeros among them. -/
def Obligations.TableWords : Prop :=
  (∀ (b : Byte) (i : Instr), decode OpCodes.table .command [b] = .ok (i, []) ↔
    (b, i) ∈ ([(0x02, .opNoop), (0x05, .opEraseSram), (0x08, .opFinalize2), (0x09, .opXferDone), (0x0A, .opFinalize1),
      (0x11, .opReadIdcode), (0x12, .opInitAddr), (0x13, .opReadUsercode), (0x15, .opEnable), (0x16, .opSpiPassthrough),
      (0x17, .opXferWrite), (0x3A, .opDisable), (0x3C, .opReload), (0x3D, .opExtFinal), (0x41, .opReadStatus),
      (0x71, .opFlashProgram), (0x75, .opFlashErase)] : List (Byte × Instr))) ∧
  (∀ o : OpCodes, o.code .extFinal = 0x3D) ∧
  decodeTableWord 8 0x3D = some .opExtFinal ∧ decodeTableWord 8 0x01 = some (.program 0 false) ∧
  decodeTableWord 8 0x03 = some .readIdCode ∧ decodeTableWord 8 0x04 = some .readStatusRegister ∧
  decodeTableWord 8 0x10 = some (.transfer 0 none none) ∧
  decode OpCodes.table .host [0x01, 0x78, 0x56, 0x34, 0x12, 0x01] = .ok (.program 0x12345678 true, []) ∧
  decode OpCodes.table .host [0x02] = .ok (.reset, []) ∧
  decode OpCodes.table .spi [0x10, 0x9F, 0, 1, 3, 0, 0, 0] = .ok (.transfer 0x9F none (some 3), []) ∧
  decode OpCodes.table .spi [0x11, 0x05, 0x01, 0x00, 0x0A, 0, 0, 0, 1] = .ok (.waitUntil 0x05 0x01 0x00 10 true, [])

/-- A step that is not the transport's runs the decoded instruction: a host request while IDLE, an SPI request at the external
algorithm's step, a command at its step of a sequence, a lone command's byte; before it the input is taken, or the step
pointer moves on. -/
def Obligations.StepRunsDecoded : Prop :=
  (∀ (s : State) (bs left : List Byte) (rest : List HostInput) (i : Instr), engineTurn s → s.pc = .idle →
    s.hostIn = .request bs :: rest → decode s.cfg.op .host bs = .ok (i, left) →
    step s = exec i { s with hostIn := rest }) ∧
  (∀ (s : State) (q : Seq) (n : Nat) (bs left : List Byte) (rest : List ExtInput) (i : Instr), engineTurn s →
    s.pc = .at q n → microAt q n = some .algorithm → s.extIn = .request bs :: rest →
    decode s.cfg.op .spi bs = .ok (i, left) → step s = exec i { s with extIn := rest }) ∧
  (∀ (s : State) (q : Seq) (n : Nat) (c : Cmd), engineTurn s → s.pc = .at q n → microAt q n = some (.cmd c) →
    step s = exec c.instr { s with pc := .at q (n + 1) }) ∧
  (∀ (s : State) (q : Seq) (n : Nat) (b : Byte) (left : List Byte) (i : Instr), engineTurn s → s.pc = .at q n →
    microAt q n = some (.cmdByte b) → decode s.cfg.op .command [b] = .ok (i, left) →
    step s = exec i { s with pc := .at q (n + 1) })

/-- Bytes at a port that are no instruction of it are refused by name (the model's choice for U6 and R351, log 21). -/
def Obligations.UndecodableRefused : Prop :=
  (∀ (s : State) (bs : List Byte) (rest : List HostInput) (e : DecodeError), engineTurn s → s.pc = .idle →
    s.hostIn = .request bs :: rest → decode s.cfg.op .host bs = .error e → step s = .refused (.undecodable .host e)) ∧
  (∀ (s : State) (q : Seq) (n : Nat) (bs : List Byte) (rest : List ExtInput) (e : DecodeError), engineTurn s →
    s.pc = .at q n → microAt q n = some .algorithm → s.extIn = .request bs :: rest →
    decode s.cfg.op .spi bs = .error e → step s = .refused (.undecodable .spi e)) ∧
  (∀ (s : State) (q : Seq) (n : Nat) (b : Byte), engineTurn s → s.pc = .at q n → microAt q n = some (.cmdByte b) →
    (∀ c, s.cfg.op.code c ≠ b) → step s = .refused (.undecodable .command (.unknownCommand b)))

/-! ## Status word and bytes -/

/-- R151, R152: the name of each of the 19 positions; decode gives exactly the flags whose bit is set, whatever the bits from
19 on; and (R153) the flag test is that bit, membership in decode, and the masked comparison with the flag's mask. -/
def Obligations.StatusDecodeExact : Prop :=
  (∀ w v : Word, (∀ i, i < 19 → w.getLsbD i = v.getLsbD i) → decodeStatus w = decodeStatus v) ∧
  (∀ w : Word, ∀ p ∈ ([(0, .crcError), (1, .badCommand), (2, .idVerifyFailed), (3, .timeout), (4, .reserved4),
      (5, .memErase), (6, .preamble), (7, .systemEdit), (8, .spiFlashDirect), (9, .reserved9), (10, .nonJtagActive),
      (11, .bypass), (12, .valid), (13, .done), (14, .securityDone), (15, .ready), (16, .por), (17, .flashLockA),
      (18, .flashLockB)] : List (Nat × Flag)), p.2 ∈ decodeStatus w ↔ w.getLsbD p.1 = true) ∧
  (∀ (w : Word) (f : Flag), (flagSet w f = true ↔ f ∈ decodeStatus w) ∧ flagSet w f = w.getLsbD f.pos ∧
    (matchesMask w f.mask f.mask = true ↔ flagSet w f = true) ∧
    (matchesMask w f.mask 0 = true ↔ flagSet w f = false))

/-- R77: the value of a 32-bit read is its four captured bytes, the first least significant; with R79, a word sent and
captured unchanged gives the word. -/
def Obligations.RegisterReadValue : Prop :=
  (∀ (s : State) (b0 b1 b2 b3 : Byte) (rs : List (List Byte)), s.xport.replies = [b0, b1, b2, b3] :: rs →
    s.answerWord = b0.setWidth 32 ||| (b1.setWidth 32 <<< 8) ||| (b2.setWidth 32 <<< 16) ||| (b3.setWidth 32 <<< 24)) ∧
  (∀ w : Word, leWordOf (addressWord w) = w)

/-- R79, R80, R82: what the three kinds of data word shift out at their steps, each one operation; then the step pointer comes
to rest from the next step, and nothing else changes. -/
def Obligations.DataWordsOnWire : Prop :=
  ∀ (s : State) (q : Seq) (n : Nat) (op : TOp), engineTurn s → s.pc = .at q n →
    (microAt q n = some (.op .addrShift) ∧
        op = .dr 32 [s.pageAddr.extractLsb' 0 8, s.pageAddr.extractLsb' 8 8, s.pageAddr.extractLsb' 16 8,
          s.pageAddr.extractLsb' 24 8] .runTestIdle false ∨
      microAt q n = some (.op .wordShift) ∧
        op = .dr 32 [s.curPage.getD (4 * s.word.toNat + 3) 0, s.curPage.getD (4 * s.word.toNat + 2) 0,
          s.curPage.getD (4 * s.word.toNat + 1) 0, s.curPage.getD (4 * s.word.toNat) 0] .runTestIdle false ∨
      microAt q n = some (.op .checksumShift) ∧
        op = .dr 32 [s.bs.checksum.extractLsb' 0 8, s.bs.checksum.extractLsb' 8 8, 0, 0] .runTestIdle false) →
    ∃ t, step s = .next t ∧
      t = State.settled { s with xport := afterOps s.xport [op], pc := .at q (n + 1) } ∧
      t.xport = afterOps s.xport [op] ∧ imagesKept s t

/-- R110, R263: a page has 256 bytes: the signature at the start of page address 0, the image's bytes, 0xFF behind its
end. -/
def Obligations.PageContent : Prop :=
  ∀ (sig : Signature) (im : Image) (addr : Word) (k i : Nat), i < 256 →
    (pageContent sig im addr k).length = 256 ∧
    (pageContent sig im addr k)[i]? = some
      (if addr = 0 ∧ i < 4 then [sig.b0, sig.b1, sig.b2, sig.b3].getD i 0
       else if 256 * k + i < im.bitLen / 8 then im.mem.read (256 * k + i) else 0xFF)

/-! ## Commands and host requests -/

/-- R172 to R174, R180 to R196: every command completes from every state: its IR shift alone, which leaves the TAP in
RUN_TEST_IDLE, its device effect left to the latch clocks (log 19); the 5 latch clocks are the next step of every sequence,
and bring that effect; nothing else changes. -/
def Obligations.CommandsComplete : Prop :=
  (∀ (c : Cmd) (s : State), encode s.cfg.op c.instr = [s.cfg.op.code c] ∧ ∃ t, exec c.instr s = .next t ∧
    t = { s with xport := afterOps s.xport [.ir (s.cfg.op.code c)], fsm := { s.fsm with latch := effectOf c } } ∧
    imagesKept s t) ∧
  (∀ (q : Seq) (n : Nat) (m : Micro), microAt q n = some m → ((∃ c, m = .cmd c) ∨ ∃ b, m = .cmdByte b) →
    microAt q (n + 1) = some .latch) ∧
  (∀ (s : State) (q : Seq) (n : Nat), engineTurn s → s.pc = .at q n → microAt q n = some .latch →
    ∃ t, step s = .next t ∧
      t = State.settled { s with xport := afterOps s.xport [.clk 5], device := s.device ++ s.fsm.latch.toList,
                                 fsm := { s.fsm with latch := none }, pc := .at q (n + 1) } ∧
      t.xport = afterOps s.xport [.clk 5] ∧ imagesKept s t)

/-- R346: read_id_code starts a fresh identity read, whose value is returned; ID and VAR stay. -/
def Obligations.ReadIdCode : Prop :=
  (∀ o, encode o .readIdCode = [0x03]) ∧
  ∀ s : State, ∃ (t : State) (v : Option Returned), exec .readIdCode s = .next t ∧
    t = { s with pc := .at .readIdCode 0, callers := [], returned := v } ∧ imagesKept s t ∧
    reaches t { s with xport := afterOps s.xport (readOps s.cfg.op .readIdcode), device := s.device ++ [.selectIdcode],
                       fsm := { s.fsm with latch := none }, returned := some (.idCode s.answerWord),
                       result := some .ok, pc := .idle, callers := [] } ∧
    (∀ rs, s.xport.replies = [0x1B, 0x28, 0x00, 0x09] :: rs → s.answerWord = 0x0900281B)

/-- R347: read_status_register starts one status read, which writes ST; the word and its flags are returned. -/
def Obligations.ReadStatusRegister : Prop :=
  (∀ o, encode o .readStatusRegister = [0x04]) ∧
  ∀ s : State, ∃ (t : State) (v : Option Returned), exec .readStatusRegister s = .next t ∧
    t = { s with pc := .at .readStatusRegister 0, callers := [], returned := v } ∧ imagesKept s t ∧
    reaches t { s with xport := afterOps s.xport (readOps s.cfg.op .readStatus), device := s.device ++ [.selectStatus],
                       fsm := { s.fsm with latch := none }, st := some s.answerWord,
                       returned := some (.status s.answerWord (decodeStatus s.answerWord)),
                       result := some .ok, pc := .idle, callers := [] }

/-- R345: reset starts the reload pair, checks nothing and ends Ok. That it clears the value returned by an earlier request is
the model's choice (log 24). -/
def Obligations.ResetRequest : Prop :=
  (∀ o, encode o .reset = [0x02]) ∧
  ∀ s : State, ∃ t, exec .reset s = .next t ∧
    t = { s with pc := .at .resetDevice 0, callers := [], returned := none } ∧ imagesKept s t ∧
    reaches t { s with xport := afterOps s.xport (cmdOps s.cfg.op .reload ++ cmdOps s.cfg.op .noop),
                       device := s.device ++ [.reload], fsm := { s.fsm with latch := none },
                       returned := none, result := some .ok, pc := .idle, callers := [] }

/-- R373: the three refused requests: LOG alone, and REFUSED to the requester. -/
def Obligations.RefusedRequests : Prop :=
  (∀ (s : State) (o : Word) (u : Bool), s.mode = none →
    exec (.program o u) s =
      .next { s with log := s.log ++ [⟨.error, .refused, 0x01⟩], returned := some .refused }) ∧
  (∀ (s : State) (c : Byte) (l : List Byte) (n : Word), n.toNat ≠ l.length →
    exec (.transfer c (some l) (some n)) s =
      .next { s with log := s.log ++ [⟨.error, .refused, 0x10⟩], spiReply := some .refused }) ∧
  (∀ (s : State) (c m e : Byte) (v : Bool),
    exec (.waitUntil c m e 0 v) s =
      .next { s with log := s.log ++ [⟨.error, .refused, 0x11⟩], spiReply := some .refused })

/-- R342, R361, R372: the first setup check that fails ends program with its ConfigError and no transport operation. That the
value returned by an earlier request is cleared is the model's choice (log 24). -/
def Obligations.SetupCheckFails : Prop :=
  ∀ (s : State) (m : ProgMode) (o : Word) (u : Bool) (b : Bool) (c : Code), s.mode = some m →
    (setupChecks s m (s.extSel || s.var.extFlashForced)).find? (fun r => r.1) = some (b, c) →
    exec (.program o u) s =
      .next { s with offset := o, unprotect := u, extSel := s.extSel || s.var.extFlashForced,
                     log := s.log ++ [⟨.error, c, 0⟩], result := some (.fatal c 0), pc := .idle, callers := [],
                     returned := none }

/-- R340, R341, R204: with MODE set and every check passed, program starts the path that MODE and the forced EXT_SEL
select, at its first transport operation, which for the volatile path is Enable's within EraseSRAM. That the value returned by
an earlier request is cleared is the model's choice (log 24). -/
def Obligations.ProgramStartsPath : Prop :=
  ∀ (s : State) (m : ProgMode) (o : Word) (u : Bool), s.mode = some m →
    (∀ r ∈ setupChecks s m (s.extSel || s.var.extFlashForced), r.1 = false) →
    ∃ t, exec (.program o u) s = .next t ∧
      t = { s with offset := o, unprotect := u, extSel := s.extSel || s.var.extFlashForced, pc := t.pc,
                   callers := t.callers, returned := none, fsm := t.fsm } ∧ imagesKept s t ∧
      (m = .volatile → t.pc = .at .enable 0 ∧ t.fsm = { s.fsm with acc := .ok } ∧
        t.callers = [⟨.eraseSram, 1, true⟩, ⟨.programVolatile, 2, true⟩]) ∧
      (m = .nonVolatile → (s.extSel || s.var.extFlashForced) = true →
        t.pc = .at .externalFlash 0 ∧ t.fsm = s.fsm ∧ t.callers = []) ∧
      (m = .nonVolatile → (s.extSel || s.var.extFlashForced) = false →
        t.pc = .at .programFlash 0 ∧ t.fsm = s.fsm ∧ t.callers = [])

/-! ## SPI -/

/-- R312, R316, R317, R318, R320: a transfer by Encoding A starts at its first shift and runs to the algorithm's step with
exactly these 8-bit shifts, 2 + 16(1+L) of them, the IR left as it was. That the reply to an earlier request is cleared first
(log 24), and that BIT shows the low 32 bits of the last index, past its width and behind the loop too (logs 9, 23), is the
model's choice. -/
def Obligations.TransferByEncodingA : Prop :=
  ∀ (s : State) (cmd : Byte) (tx : Option (List Byte)) (rl : Option Word), s.var.spiEncoding = .encA →
    lengthsAgree tx rl → ∃ (t : State) (call : SpiCall) (r rx : List Byte), exec (.transfer cmd tx rl) s = .next t ∧
      t = { s with txb := cmd :: payload tx rl, rxb := List.replicate (1 + (payload tx rl).length) 0, spiReply := none,
                   fsm := { s.fsm with spi := call }, pc := .at .transferA 1,
                   callers := ⟨.spiTransfer, 1, true⟩ :: ⟨.externalFlash, 16, false⟩ :: s.callers } ∧
      imagesKept s t ∧
      (scanA s.var.pinmap rl.isSome (spiBits (cmd :: payload tx rl))).length = 2 + 16 * (1 + (payload tx rl).length) ∧
      r.length = (if rl.isSome then (payload tx rl).length else 0) ∧
      reaches t { s with xport := afterOps s.xport (scanA s.var.pinmap rl.isSome (spiBits (cmd :: payload tx rl))),
                         txb := cmd :: payload tx rl, rxb := rx,
                         bit := BitVec.ofNat 32 (8 * (1 + (payload tx rl).length) - 1), spiReply := some (.bytes r),
                         fsm := { s.fsm with spi := call, index := 8 * (1 + (payload tx rl).length) - 1, ret := .ok },
                         pc := .at .externalFlash 16 }

/-- R319: the received bit of each position is the data-out bit of the clock-high shift of that position, most
significant first; the bits received during the command byte are not returned. -/
def Obligations.ReadBackByEncodingA : Prop :=
  ∀ (s : State) (cmd : Byte) (tx : Option (List Byte)) (n : Word), s.var.spiEncoding = .encA →
    lengthsAgree tx (some n) → ∃ (t u : State) (r : List Byte), exec (.transfer cmd tx (some n)) s = .next t ∧
      reaches t u ∧ u.pc = .at .externalFlash 16 ∧ u.callers = s.callers ∧ u.spiReply = some (.bytes r) ∧
      r.length = n.toNat ∧ u.xport.draws = s.xport.draws + 8 * (1 + n.toNat) ∧
      ∀ i j, i < n.toNat → j < 8 →
        (r.getD i 0).getLsbD (7 - j) = (capturedByte s.xport (8 * (i + 1) + j)).getLsbD s.var.pinmap.dout.val

/-- R322: a transfer by Encoding B: the passthrough command, the intermediate TAP state, one shift of the whole
transaction; the payload reassembled when it reads. R324: a payload byte is the 8 shift bits from bit 8(i+1)+1 on, the first
of them most significant. That the reply to an earlier request is cleared first is the model's choice (log 24). -/
def Obligations.TransferByEncodingB : Prop :=
  (∀ (s : State) (cmd : Byte) (tx : Option (List Byte)) (rl : Option Word), s.var.spiEncoding = .encB →
    lengthsAgree tx rl → ∃ (t : State) (call : SpiCall) (rx cap : List Byte), exec (.transfer cmd tx rl) s = .next t ∧
      t = { s with txb := cmd :: payload tx rl, rxb := [], spiReply := none, fsm := { s.fsm with spi := call },
                   pc := .at .transferB 0,
                   callers := ⟨.spiTransfer, 1, true⟩ :: ⟨.externalFlash, 16, false⟩ :: s.callers } ∧
      imagesKept s t ∧
      cap = s.xport.answer (8 * (1 + (payload tx rl).length) + extraBits s rl.isSome) ∧
      rx = (if rl.isSome then (List.range (payload tx rl).length).map (payloadB cap) else []) ∧
      reaches t { s with xport := afterOps s.xport (scanB s rl.isSome (cmd :: payload tx rl)),
                         txb := cmd :: payload tx rl, rxb := rx, spiReply := some (.bytes rx),
                         fsm := { s.fsm with spi := call, ret := .ok, latch := none },
                         device := s.device ++ [.connectSpiFlash], pc := .at .externalFlash 16 }) ∧
  (∀ (cap : List Byte) (i j : Nat), j < 8 →
    (payloadB cap i).getLsbD (7 - j) =
      (cap.getD ((8 * (i + 1) + 1 + j) / 8) 0).getLsbD ((8 * (i + 1) + 1 + j) % 8))

/-- R106, R117: the boundary-scan byte: the three levels at their positions, 1 at data-out and mask, 0 elsewhere. -/
def Obligations.BoundaryScanByte : Prop :=
  ∀ (pm : PinMap) (cs sck di : Bool), pm.distinct = true →
    (bscanByte pm cs sck di).getLsbD pm.cs.val = cs ∧ (bscanByte pm cs sck di).getLsbD pm.sck.val = sck ∧
    (bscanByte pm cs sck di).getLsbD pm.di.val = di ∧ (bscanByte pm cs sck di).getLsbD pm.dout.val = true ∧
    (bscanByte pm cs sck di).getLsbD pm.msk.val = true ∧
    ∀ i : Fin 8, i ∉ [pm.sck, pm.cs, pm.di, pm.dout, pm.msk] → (bscanByte pm cs sck di).getLsbD i.val = false

/-- R330: wait_until runs transactions `transfer(cmd, none, 1)` until the first whose byte matches under the mask, and then
returns success; after `bound` transactions without a match it logs and returns a timeout with the last byte. That POLLCNT
keeps its last value behind its loop is the model's choice (log 9). -/
def Obligations.WaitUntil : Prop :=
  ∀ (s : State) (cmd mask expected : Byte) (bound : Word) (verbose : Bool) (K : Nat), bound ≠ 0 → 1 ≤ K →
    K ≤ bound.toNat → (∀ j, j + 1 < K → polled s j &&& mask ≠ expected) →
    (polled s (K - 1) &&& mask = expected ∨ K = bound.toNat) →
    ∃ (t : State) (rx : List Byte) (bit : Word) (fsm : Fsm) (l : List LogEntry) (a : SpiReply),
      exec (.waitUntil cmd mask expected bound verbose) s = .next t ∧
      reaches t { s with xport := afterOps s.xport (List.replicate K (scan s true [cmd, 0])).flatten, txb := [cmd, 0],
                         rxb := rx, bit := bit, fsm := fsm, pollCnt := BitVec.ofNat 32 K,
                         log := s.log ++ waitLog s verbose K ++ l, device := s.device ++ waitDevice s K,
                         spiReply := some a, pc := .at .externalFlash 16 } ∧
      (polled s (K - 1) &&& mask = expected → a = .success ∧ l = []) ∧
      (polled s (K - 1) &&& mask ≠ expected → a = .timeoutError (polled s (K - 1)) ∧
        l = [⟨.error, .spiTimeout, (polled s (K - 1)).setWidth 32⟩])

/-! ## The sequencer -/

/-- R177: a poll whose first match is the answer after `ws`, within POLL_MAX reads, makes that many status reads and goes on.
That POLLCNT keeps its last value behind its loop is the model's choice (log 9). -/
def Obligations.PollMatches : Prop :=
  ∀ (s : State) (q : Seq) (n : Nat) (mask value : Word) (code : Code) (ws : List Word) (w : Word)
    (rest : List (List Byte)), s.pc = .at q n → microAt q n = some (.cmd .readStatus) →
    microAt q (n + 1) = some .latch → microAt q (n + 2) = some (.op .readSt) →
    microAt q (n + 3) = some (.ctl (.pollNext mask value code n)) → s.pollCnt = 0 →
    s.xport.replies = (ws ++ [w]).map leBytes ++ rest → (∀ v ∈ ws, v &&& mask ≠ value) → w &&& mask = value →
    ws.length + 1 ≤ s.cfg.pollMax.toNat →
    reaches s (State.settled
      { s with xport := afterOps s.xport (List.replicate (ws.length + 1) (readOps s.cfg.op .readStatus)).flatten,
               st := some w, pollCnt := BitVec.ofNat 32 (ws.length + 1), fsm := { s.fsm with latch := none },
               device := s.device ++ List.replicate (ws.length + 1) .selectStatus, pc := .at q (n + 4) })

/-- R177, R366: a poll of POLL_MAX reads without a match logs E_POLL_TIMEOUT with the last word and returns the caller's
Fatal, which is RESULT where every caller passes it up; the three polls and their codes. That POLLCNT keeps its last value
behind its loop is the model's choice (log 9). -/
def Obligations.PollTimesOut : Prop :=
  (∀ (s : State) (q : Seq) (n : Nat) (mask value : Word) (code : Code) (ws : List Word) (w : Word)
    (rest : List (List Byte)), s.pc = .at q n → microAt q n = some (.cmd .readStatus) →
    microAt q (n + 1) = some .latch → microAt q (n + 2) = some (.op .readSt) →
    microAt q (n + 3) = some (.ctl (.pollNext mask value code n)) → s.pollCnt = 0 →
    s.xport.replies = (ws ++ [w]).map leBytes ++ rest → (∀ v ∈ ws ++ [w], v &&& mask ≠ value) →
    ws.length + 1 = s.cfg.pollMax.toNat →
    ∃ u : State, u =
      { s with xport := afterOps s.xport (List.replicate (ws.length + 1) (readOps s.cfg.op .readStatus)).flatten,
               st := some w, pollCnt := BitVec.ofNat 32 (ws.length + 1), fsm := { s.fsm with latch := none },
               device := s.device ++ List.replicate (ws.length + 1) .selectStatus,
               log := s.log ++ [⟨.error, .pollTimeout, w⟩], pc := .at q (n + 3) } ∧
      reaches s (u.returnOutcome (.fatal code w)).settled ∧
      ((∀ f ∈ s.callers, f.passFatal = true) →
        reaches s { u with pc := .idle, callers := [], result := some (.fatal code w) })) ∧
  (∀ (q : Seq) (k n : Nat) (mask value : Word) (code : Code),
    microAt q k = some (.ctl (.pollNext mask value code n)) →
    k = n + 3 ∧ 1 ≤ n ∧ microAt q (n - 1) = some (.ctl .pollInit) ∧ microAt q n = some (.cmd .readStatus) ∧
    microAt q (n + 1) = some .latch ∧ microAt q (n + 2) = some (.op .readSt) ∧
    ((q = .enable ∧ mask = 0x80 ∧ value = 0x80 ∧ code = .enableTimeout) ∨
     (q = .disable ∧ mask = 0x80 ∧ value = 0 ∧ code = .disableTimeout) ∨
     (q = .eraseSram ∧ mask = 0x20 ∧ value = 0x20 ∧ code = .sramEraseTimeout)))

/-- R365, R369, R370: what a sequence's return does: an outcome that is not Fatal goes to the nearest caller, or, where there
is none, to RESULT; a Fatal one ends the callers that pass it up, and goes to the first that binds it, or to RESULT. -/
def Obligations.OutcomesPropagate : Prop :=
  (∀ (s : State) (o : SeqOutcome) (f : Frame) (fs : List Frame), o.isFatal = false → s.callers = f :: fs →
    s.returnOutcome o = { s with pc := .at f.seq f.step, callers := fs, fsm := { s.fsm with ret := o } }) ∧
  (∀ (s : State) (o : SeqOutcome), s.callers = [] →
    s.returnOutcome o = { s with result := some o, pc := .idle, callers := [] }) ∧
  (∀ (s : State) (o : SeqOutcome) (pre : List Frame) (g : Frame) (fs : List Frame), o.isFatal = true →
    s.callers = pre ++ g :: fs → (∀ f ∈ pre, f.passFatal = true) → g.passFatal = false →
    s.returnOutcome o = { s with pc := .at g.seq g.step, callers := fs, fsm := { s.fsm with ret := o } }) ∧
  (∀ (s : State) (o : SeqOutcome), o.isFatal = true → (∀ f ∈ s.callers, f.passFatal = true) →
    s.returnOutcome o = { s with result := some o, pc := .idle, callers := [] })

/-- R368: worst is the more severe of the two, the first of two of equal rank. -/
def Obligations.WorstOutcome : Prop :=
  SeqOutcome.rank .ok = 0 ∧ (∀ c w, SeqOutcome.rank (.advisory c w) = 1) ∧ (∀ c w, SeqOutcome.rank (.fatal c w) = 2) ∧
  (∀ a b : SeqOutcome, (worst a b).rank = max a.rank b.rank ∧ (worst a b = a ∨ worst a b = b) ∧
    (a.rank = b.rank → worst a b = a)) ∧
  (∀ a b c : SeqOutcome, worst (worst a b) c = worst a (worst b c))

/-- R255, R250: at the last read of an attempt of EraseFlash: with DONE clear in its word no attempt follows and the erase
returns Ok; with DONE set the next attempt's first command is next, until 100 are done, and then the Advisory is returned.
That ATTEMPT keeps its last value behind the loop, ended early or exhausted, is the model's choice (log 9). -/
def Obligations.EraseLoopExitsEarly : Prop :=
  ∀ (s u : State) (w : Word) (f : Frame) (fs : List Frame), engineTurn s → s.pc = .at .eraseAttempt 14 →
    s.callers = ⟨.eraseFlash, 7, true⟩ :: f :: fs → s.answerWord = w → u = { s.captureWord with st := some w } →
    (w.getLsbD 13 = false → step s = .next (State.settled
      { u with pc := .at f.seq f.step, callers := fs, fsm := { s.fsm with ret := .ok } })) ∧
    (w.getLsbD 13 = true → s.attempt.toNat + 1 < 100 → step s = .next
      { u with attempt := s.attempt + 1, pc := .at .enable 0, fsm := { s.fsm with ret := .ok },
               callers := ⟨.eraseAttempt, 1, true⟩ :: ⟨.eraseFlash, 7, true⟩ :: f :: fs }) ∧
    (w.getLsbD 13 = true → 100 ≤ s.attempt.toNat + 1 → step s = .next (State.settled
      { u with pc := .at f.seq f.step, callers := fs, log := s.log ++ [⟨.error, .flashEraseDoneSet, w⟩],
               fsm := { s.fsm with ret := .advisory .flashEraseDoneSet w } }))

/-- R226: EraseSRAM with each poll matched at its first read: its whole stream, and its return by DONE of the last status.
That POLLCNT keeps its last value behind its loop is the model's choice (log 9). -/
def Obligations.EraseSramRun : Prop :=
  ∀ (s : State) (a b c w : Word) (rest : List (List Byte)) (f : Frame) (fs : List Frame),
    s.pc = .at .eraseSram 0 → s.callers = f :: fs → 1 ≤ s.cfg.pollMax.toNat →
    s.xport.replies = [leBytes a, leBytes b, leBytes c, leBytes w] ++ rest →
    a &&& 0x80 = 0x80 → b &&& 0x20 = 0x20 → c &&& 0x80 = 0 →
    reaches s.settled (State.settled
      { s with xport := afterOps s.xport (eraseSramOps s.cfg.op), device := s.device ++ effects eraseSramCmds,
               st := some w, pollCnt := 1, log := s.log ++ advisoryLog (eraseSramResult w),
               fsm := { s.fsm with ret := eraseSramResult w, latch := none }, pc := .at f.seq f.step, callers := fs })

/-- R104, R234, R235: the stream of the SRAM load: ceil(LEN / CHUNK_BYTES) shifts that carry the image in order, all but
the last ending in SHIFT_DR. That CHUNK shows the low 32 bits of the last index, past its width and behind the loop too, is
the model's choice (logs 9, 23). -/
def Obligations.StreamRun : Prop :=
  ∀ s : State, s.pc = .at .loadSram 5 → 0 < s.bs.image.bitLen / 8 → 0 < s.cfg.chunkBytes →
    reaches s.settled
      { s with xport := afterOps s.xport (streamOps s), chunk := BitVec.ofNat 32 (chunks s - 1),
               fsm := { s.fsm with index := chunks s - 1 }, pc := .at .loadSram 8 } ∧
    (streamOps s).length = chunks s ∧
    (List.range (chunks s)).flatMap (chunkBytesOf s) = (List.range (s.bs.image.bitLen / 8)).map s.bs.image.mem.read

/-- R340, R226, R234, R368: the volatile path with each poll matched at its first read: both streams in order, and RESULT the
worst of the two returns. That CHUNK shows the low 32 bits of the last index, past its width and behind the loop too, is the
model's choice (logs 9, 23). So is that POLLCNT keeps its (log 9). -/
def Obligations.VolatilePathRun : Prop :=
  ∀ (s : State) (a1 a2 a3 aw b1 b2 bw : Word) (rest : List (List Byte)), s.pc = .at .programVolatile 0 →
    s.callers = [] → 0 < s.bs.image.bitLen / 8 → 0 < s.cfg.chunkBytes → 1 ≤ s.cfg.pollMax.toNat →
    s.xport.replies =
      [leBytes a1, leBytes a2, leBytes a3, leBytes aw, leBytes b1, leBytes b2, leBytes bw] ++ rest →
    a1 &&& 0x80 = 0x80 → a2 &&& 0x20 = 0x20 → a3 &&& 0x80 = 0 → b1 &&& 0x80 = 0x80 → b2 &&& 0x80 = 0 →
    reaches s.settled
      { s with xport := afterOps s.xport (eraseSramOps s.cfg.op ++ loadSramOps s),
               device := s.device ++ effects (eraseSramCmds ++ loadSramCmds), st := some bw, pollCnt := 1,
               chunk := BitVec.ofNat 32 (chunks s - 1),
               log := s.log ++ advisoryLog (eraseSramResult aw) ++ advisoryLog (loadSramResult bw),
               result := some (worst (eraseSramResult aw) (loadSramResult bw)), pc := .idle, callers := [],
               fsm := { s.fsm with acc := worst (eraseSramResult aw) (loadSramResult bw), ret := loadSramResult bw,
                                   index := chunks s - 1, latch := none } }

/-- R252, R253, R254: an erase attempt with each poll matched at its first read: its whole stream, the hold active clocking at
the frequency in force; and of it the raw bursts: the TAP to SHIFT_DR, then 65 or 1 toggles of 32 there. That POLLCNT keeps
its last value behind its loop is the model's choice (log 9). -/
def Obligations.EraseAttemptRun : Prop :=
  (∀ (s : State) (a b w : Word) (rest : List (List Byte)) (f : Frame) (fs : List Frame),
    s.pc = .at .eraseAttempt 0 → s.callers = f :: fs → 1 ≤ s.cfg.pollMax.toNat →
    s.xport.replies = [leBytes a, leBytes b, leBytes w] ++ rest → a &&& 0x80 = 0x80 → b &&& 0x80 = 0 →
    reaches s.settled (State.settled
      { s with xport := afterOps s.xport (eraseAttemptOps s), st := some w, pollCnt := 1,
               device := s.device ++ effects [.enable, .readStatus, .flashErase, .disable, .noop, .readStatus, .readStatus],
               fsm := { s.fsm with ret := .ok, index := bursts s - 1, latch := none },
               pc := .at f.seq f.step, callers := fs })) ∧
  (∀ s : State, s.pc = .at .eraseAttempt 4 →
    reaches s (State.settled
      { s with xport := afterOps s.xport ([.state .shiftDR] ++ List.replicate (bursts s) (.clk 32)),
               fsm := { s.fsm with index := bursts s - 1 }, pc := .at .eraseAttempt 8 }) ∧
    (afterOps s.xport ([.state .shiftDR] ++ List.replicate (bursts s) (.clk 32))).tap = .shiftDR)

/-- R264, R79, R80, R265: one page from its first step with Enable's poll matched at its first read: the leading gap exactly
when the page's address is not 0, Enable, the program command, the address word, the 64 words each byte-reversed, and the
clocked waits of the rule between them. That PAGE shows the low 32 bits of the page's index (log 23) and that WORD keeps its
last value behind the loop (log 9) is the model's choice. So is that POLLCNT keeps its (log 9). -/
def Obligations.PageRun : Prop :=
  ∀ (s : State) (a : Word) (rest : List (List Byte)) (f : Frame) (fs : List Frame), s.pc = .at .writePage 0 →
    s.callers = f :: fs → s.page = BitVec.ofNat 32 s.fsm.index → 1 ≤ s.cfg.pollMax.toNat →
    s.xport.replies = leBytes a :: rest → a &&& 0x80 = 0x80 →
    reaches s.settled (State.settled
      { s with xport := afterOps s.xport (pageOps s s.fsm.image s.fsm.index), device := s.device ++ effects pageCmds,
               st := some a, pollCnt := 1, word := 63, fsm := { s.fsm with ret := .ok, latch := none },
               pc := .at f.seq f.step, callers := fs })

/-- R262, R110: WriteImage from its first step, each poll matched at its first read: the ceil(LEN / 256) pages of the image in
hand in order, from base page 0 or 0x380, then one epilogue, whose outcome is returned. That PAGE shows the low 32 bits of the
last index, past its width and behind the loop too, and that WORD keeps its last value, is the model's choice (logs 9, 23). So
is that POLLCNT keeps its (log 9). -/
def Obligations.WriteImageRun : Prop :=
  ∀ (s : State) (as : List Word) (c w : Word) (l rest : List (List Byte)) (f : Frame) (fs : List Frame),
    s.pc = .at .writeImage 0 → s.callers = f :: fs → 0 < (imageOf s s.fsm.image).bitLen / 8 →
    1 ≤ s.cfg.pollMax.toNat → writeAnswers s s.fsm.image as c w l → s.xport.replies = l ++ rest →
    reaches s.settled (State.settled
      { s with xport := afterOps s.xport (writeImageOps s s.fsm.image),
               device := s.device ++ effects (writeImageCmds s s.fsm.image), st := some w, pollCnt := 1,
               page := BitVec.ofNat 32 (pages s s.fsm.image - 1), word := 63, log := s.log ++ advisoryLog (writeResult w),
               fsm := { s.fsm with ret := writeResult w, index := pages s s.fsm.image - 1, latch := none },
               pc := .at f.seq f.step, callers := fs })

/-- R266, R404: the image epilogue with its poll matched at the first read: the flush behind the reload pair, the sleep behind
the flush, one status read, the return by DONE. That POLLCNT keeps its last value behind its loop is the model's choice (log
9). -/
def Obligations.EpilogueRun : Prop :=
  ∀ (s : State) (a w : Word) (rest : List (List Byte)) (f : Frame) (fs : List Frame),
    s.pc = .at .imageEpilogue 0 → s.callers = f :: fs → 1 ≤ s.cfg.pollMax.toNat →
    s.xport.replies = [leBytes a, leBytes w] ++ rest → a &&& 0x80 = 0 →
    reaches s.settled (State.settled
      { s with xport := afterOps s.xport (epilogueOps s.cfg.op), device := s.device ++ effects epilogueCmds,
               st := some w, pollCnt := 1, log := s.log ++ advisoryLog (writeResult w),
               fsm := { s.fsm with ret := writeResult w, latch := none }, pc := .at f.seq f.step, callers := fs })

/-- R178: a clocked wait is floor(f · us / 1 000 000) cycles at the frequency in force, and nothing when that is 0; the
TAP stays where it is when it is in one of the five states of R170. -/
def Obligations.ClockForDuration : Prop :=
  (∀ (s : State) (us : Word),
    s.clockFor us = { s with xport := afterOps s.xport (clkUsOps s.xport.freq us) } ∧
    (s.xport.tap ∈ [TapState.runTestIdle, .shiftDR, .shiftIR, .pauseDR, .pauseIR] →
      (s.clockFor us).xport.tap = s.xport.tap)) ∧
  (∀ (s : State) (q : Seq) (n : Nat) (d : Delay), engineTurn s → s.pc = .at q n →
    microAt q n = some (.op (.clkFor d)) → step s = .next (State.settled
      { s with xport := afterOps s.xport (clkUsOps s.xport.freq (s.delayUs d)), pc := .at q (n + 1) })) ∧
  clkUsOps 2500000 150000 = [.clk 375000] ∧ clkUsOps 10000000 150000 = [.clk 1500000]

/-- R271: ProgramFlash reads the status once and goes on exactly when VALID or POR is set; else it ends Fatal with nothing
of the erase issued. -/
def Obligations.ProgrammablePrecondition : Prop :=
  ∀ (s u : State) (w : Word), s.pc = .at .programFlash 3 → s.callers = [] → s.answerWord = w →
    u = { s with xport := afterOps s.xport (readOps s.cfg.op .readStatus), st := some w,
                 device := s.device ++ [.selectStatus], fsm := { s.fsm with latch := none } } →
    (w &&& (0x00001000 ||| 0x00010000) ≠ 0 →
      reaches s { u with pc := .at .eraseFlash 0, callers := [⟨.programFlash, 9, true⟩],
                         fsm := { s.fsm with acc := .ok, latch := none } }) ∧
    (w &&& (0x00001000 ||| 0x00010000) = 0 →
      reaches s { u with pc := .idle, result := some (.fatal .notProgrammable w),
                         log := s.log ++ [⟨.error, .notProgrammable, w⟩] })

/-- R403, R270, R250, R256: ProgramFlash's opening, each poll matched at its first read: the frequency, Disable, the TAP
reset, the precondition's status read; then the erase's own status read, EraseSRAM exactly when VALID is set in it, and the
first attempt, no attempt counted. That POLLCNT keeps its last value behind its loop is the model's choice (log 9). -/
def Obligations.ProgramFlashOpening : Prop :=
  ∀ (s u : State) (d p v : Word) (rest : List (List Byte)), s.pc = .at .programFlash 0 → s.callers = [] →
    1 ≤ s.cfg.pollMax.toNat → d &&& 0x80 = 0 → p &&& (0x00001000 ||| 0x00010000) ≠ 0 →
    u = { s with pc := .at .eraseAttempt 0, callers := [⟨.eraseFlash, 7, true⟩, ⟨.programFlash, 9, true⟩],
                 pollCnt := 1, attempt := 0 } →
    (∀ ops, ops = [.freq 2500000] ++ disableOps s.cfg.op ++ [.state .testLogicReset] ++ readOps s.cfg.op .readStatus
        ++ readOps s.cfg.op .readStatus →
      (v.getLsbD 12 = false → s.xport.replies = [leBytes d, leBytes p, leBytes v] ++ rest →
        reaches s (State.settled
          { u with xport := afterOps s.xport ops, st := some v,
                   device := s.device ++ effects [.disable, .noop, .readStatus, .readStatus, .readStatus],
                   fsm := { s.fsm with acc := .ok, ret := .ok, latch := none } })) ∧
      (∀ a b c w : Word, v.getLsbD 12 = true → a &&& 0x80 = 0x80 → b &&& 0x20 = 0x20 → c &&& 0x80 = 0 →
        s.xport.replies =
          [leBytes d, leBytes p, leBytes v, leBytes a, leBytes b, leBytes c, leBytes w] ++ rest →
        reaches s (State.settled
          { u with xport := afterOps s.xport (ops ++ eraseSramOps s.cfg.op), st := some w,
                   device := s.device ++ effects ([.disable, .noop, .readStatus, .readStatus, .readStatus] ++ eraseSramCmds),
                   log := s.log ++ advisoryLog (eraseSramResult w),
                   fsm := { s.fsm with acc := .ok, ret := eraseSramResult w, latch := none } })))

/-- R270, R272, R368: ProgramFlash behind its erase, each poll matched at its first read: the main image, the firmware image
at page 0x380 exactly when MCU_IMG_SEL is 1, the two warnings, the checksum check exactly when the algorithm is known; RESULT
the worst of all the returns. That PAGE shows the low 32 bits of the last index, past its width and behind the loop too, and
that WORD keeps its last value, is the model's choice (logs 9, 23). So is that POLLCNT keeps its (log 9). -/
def Obligations.ProgramFlashEnd : Prop :=
  ∀ (s : State) (as1 as2 : List Word) (c1 w1 c2 w2 uc : Word) (l1 l2 rest : List (List Byte)) (oc : SeqOutcome)
    (lc : List LogEntry), s.pc = .at .programFlash 9 → s.callers = [] → 1 ≤ s.cfg.pollMax.toNat →
    0 < s.bs.image.bitLen / 8 → (s.mcuImgSel = true → 0 < s.mcu.bitLen / 8) → writeAnswers s .main as1 c1 w1 l1 →
    writeAnswers s .mcu as2 c2 w2 l2 → checksumAnswer s uc oc lc →
    s.xport.replies = l1 ++ (if s.mcuImgSel then l2 else []) ++ (if s.var.checksumKnown then [leBytes uc] else []) ++ rest →
    ∃ (fsm : Fsm) (r : SeqOutcome),
      r = worst (worst (worst (worst s.fsm.acc s.fsm.ret) (writeResult w1)) (if s.mcuImgSel then writeResult w2 else .ok))
            (if s.var.checksumKnown then oc else .ok) ∧
      reaches s.settled
        { s with xport := afterOps s.xport (writeImageOps s .main ++ (if s.mcuImgSel then writeImageOps s .mcu else [])
                   ++ (if s.var.checksumKnown then readOps s.cfg.op .readUsercode else [])),
                 device := s.device ++ effects (writeImageCmds s .main
                   ++ (if s.mcuImgSel then writeImageCmds s .mcu else [])
                   ++ (if s.var.checksumKnown then [.readUsercode] else [])),
                 st := some (if s.mcuImgSel then w2 else w1), uc := if s.var.checksumKnown then some uc else s.uc,
                 pollCnt := 1, word := 63, fsm := fsm,
                 page := BitVec.ofNat 32 (pages s (if s.mcuImgSel then .mcu else .main) - 1),
                 log := s.log ++ advisoryLog (writeResult w1) ++ (if s.mcuImgSel then advisoryLog (writeResult w2) else [])
                   ++ (if s.verifyReq then [⟨.warning, .verifyUnsupported, 0⟩] else [])
                   ++ (if s.var.checksumKnown then lc else [⟨.warning, .checksumSkipped, 0⟩]),
                 result := some r, pc := .idle, callers := [] }

/-- R278, R280: the checksum check: one user-code read, and Ok exactly when the low 16 bits are the bitstream's checksum or
all 32 the header's fallback value; otherwise the Advisory. -/
def Obligations.ChecksumCheck : Prop :=
  ∀ (s : State) (f : Frame) (fs : List Frame) (w : Word) (o : SeqOutcome) (l : List LogEntry),
    s.pc = .at .checksumCheck 0 → s.callers = f :: fs → s.answerWord = w → checksumAnswer s w o l →
    reaches s (State.settled
      { s with xport := afterOps s.xport (readOps s.cfg.op .readUsercode), device := s.device ++ [.selectUsercode],
               uc := some w, log := s.log ++ l, fsm := { s.fsm with ret := o, latch := none },
               pc := .at f.seq f.step, callers := fs })

/-- R279: exactly the texts of an optional prefix and one to eight hexadecimal digits have a value, the number they
write. -/
def Obligations.ParseHex : Prop :=
  (∀ (h : Text) (v : Nat), isHexText h v → parseHex32 h = some (BitVec.ofNat 32 v)) ∧
  (∀ h : Text, (∀ v, ¬ isHexText h v) → parseHex32 h = none) ∧
  parseHex32 [0x31, 0x32, 0x33, 0x34, 0x41, 0x42, 0x43, 0x44] = some 0x1234ABCD ∧
  parseHex32 [0x30, 0x78, 0x31, 0x32, 0x33, 0x34, 0x61, 0x62, 0x63, 0x64] = some 0x1234ABCD ∧
  parseHex32 [0x31, 0x32, 0x47, 0x34] = none

/-- The opening of ExternalFlash (R290) up to the external algorithm, in the runs in which each poll of Enable, EraseSRAM and
the exit's Disable (R220, R226, R222) matches at its first read: the frequency, Enable, EraseSRAM, the transfer-done pair, the
family's exit (R292), each for its family alone. That POLLCNT keeps its last value behind its loop is the model's choice (log
9). -/
def Obligations.ExitSequences : Prop :=
  ∀ (s u : State) (e a b c w : Word) (rest : List (List Byte)) (ops : List TOp) (cs : List Cmd),
    s.pc = .at .externalFlash 0 → s.callers = [] → 1 ≤ s.cfg.pollMax.toNat → e &&& 0x80 = 0x80 → a &&& 0x80 = 0x80 →
    b &&& 0x20 = 0x20 → c &&& 0x80 = 0 →
    ops = [.freq 10000000] ++ enableOps s.cfg.op ++ eraseSramOps s.cfg.op ++ cmdOps s.cfg.op .xferDone
      ++ cmdOps s.cfg.op .noop →
    cs = [.enable, .readStatus] ++ eraseSramCmds ++ [.xferDone, .noop] →
    u = { s with pollCnt := 1, log := s.log ++ advisoryLog (eraseSramResult w), pc := .at .externalFlash 16 } →
    (s.var.extExit = .finalOpcode →
      s.xport.replies = [leBytes e, leBytes a, leBytes b, leBytes c, leBytes w] ++ rest →
      reaches s { u with xport := afterOps s.xport (ops ++ [.ir 0x3D, .clk 5]), device := s.device ++ effects (cs ++ [.extFinal]),
                         st := some w,
                         fsm := { s.fsm with acc := eraseSramResult w, ret := eraseSramResult w, latch := none } }) ∧
    (∀ d : Word, s.var.extExit = .disableNoop → d &&& 0x80 = 0 →
      s.xport.replies = [leBytes e, leBytes a, leBytes b, leBytes c, leBytes w, leBytes d] ++ rest →
      reaches s { u with xport := afterOps s.xport (ops ++ disableOps s.cfg.op ++ cmdOps s.cfg.op .noop),
                         device := s.device ++ effects (cs ++ [.disable, .noop, .readStatus, .noop]), st := some d,
                         fsm := { s.fsm with acc := eraseSramResult w, ret := .ok, latch := none } })

/-- R297, R298, R372: once the external algorithm has ended, the reload pair is issued whatever it and the Disable behind
it returned, and RESULT is its failure first, then that Disable's, then the erase's outcome. -/
def Obligations.ResetRegardless : Prop :=
  (∀ (s : State) (ok : Bool) (rest : List ExtInput), s.pc = .at .externalFlash 16 → s.callers = [] →
    s.extIn = .finish ok :: rest → s.var.extExit = .finalOpcode →
    reaches s
      { s with xport := afterOps s.xport (cmdOps s.cfg.op .reload ++ cmdOps s.cfg.op .noop), extIn := rest,
               device := s.device ++ [.reload], result := some (if ok then s.fsm.acc else .fatal .extAlgoFailed 0),
               log := s.log ++ (if ok then [] else [⟨.error, .extAlgoFailed, 0⟩]), pc := .idle,
               fsm := { s.fsm with algoOk := ok, post := .ok, ret := .ok, latch := none } }) ∧
  (∀ (s : State) (ok : Bool) (rest : List ExtInput), engineTurn s → s.pc = .at .externalFlash 16 → s.callers = [] →
    s.extIn = .finish ok :: rest → s.var.extExit = .disableNoop →
    step s = .next { s with pc := .at .disable 0, callers := [⟨.externalFlash, 20, false⟩], extIn := rest,
                            fsm := { s.fsm with algoOk := ok, post := .ok } }) ∧
  (∀ s : State, s.pc = .at .externalFlash 20 → s.callers = [] →
    reaches s.settled
      { s with xport := afterOps s.xport (cmdOps s.cfg.op .reload ++ cmdOps s.cfg.op .noop),
               device := s.device ++ [.reload], pc := .idle,
               result := some (if s.fsm.algoOk = false then .fatal .extAlgoFailed 0
                 else if s.fsm.ret.isFatal then s.fsm.ret else s.fsm.acc),
               log := s.log ++ (if s.fsm.algoOk then [] else [⟨.error, .extAlgoFailed, 0⟩]),
               fsm := { s.fsm with post := s.fsm.ret, ret := .ok, latch := none } })

/-- R350: the host's configuration writes between host operations: the register alone, no transport operation. That attaching
a bitstream is an input at the host's port, and that the firmware image comes and stays with MCU_IMG_SEL, is the model's
choice (log 13). -/
def Obligations.HostWrites : Prop :=
  ∀ (s : State) (rest : List HostInput), engineTurn s → s.pc = .idle →
    (∀ m, s.hostIn = .setMode m :: rest → step s = .next { s with hostIn := rest, mode := some m }) ∧
    (∀ v, s.hostIn = .setExtSel v :: rest → step s = .next { s with hostIn := rest, extSel := v }) ∧
    (s.hostIn = .setMcuImg none :: rest → step s = .next { s with hostIn := rest, mcuImgSel := false }) ∧
    (∀ im, s.hostIn = .setMcuImg (some im) :: rest →
      step s = .next { s with hostIn := rest, mcuImgSel := true, mcu := im }) ∧
    (∀ v, s.hostIn = .setVerifyReq v :: rest → step s = .next { s with hostIn := rest, verifyReq := v }) ∧
    (∀ b, s.hostIn = .attach b :: rest → step s = .next { s with hostIn := rest, bs := b })

/-- R299: while the external algorithm gives nothing the machine stays as it is, however long, but that the transport may
perform its queue; the host operation does not end. -/
def Obligations.SilentAlgorithmWaits : Prop :=
  ∀ (s : State) (q : Seq) (n : Nat), s.pc = .at q n → microAt q n = some .algorithm → s.extIn = [] →
    ∀ k, ∃ p, runSteps k s = .next (s.withPerformed p)

/-! ## Variant, construction, memory -/

/-- R209, R200 to R202, R207: the known points of the variant table; for well-formed parameters the default for an identity
without a row, and for one of no device answering; and the table's shape. What makes parameters well formed, and that the
external flash is forced exactly where the checksum algorithm is unknown, is the model's reading of R52 and R203 (DEDUCED,
log 17). -/
def Obligations.VariantKnownPoints : Prop :=
  (∀ p : Params, (resolve p 0x0900281B).extendedErase = true) ∧
  (∀ (p : Params) (id : Word), p.wf = true → (∀ r ∈ p.variantTable, r.1 ≠ id) →
    resolve p id = { defaultVariant p with extendedErase := id == 0x0900281B }) ∧
  (∀ p : Params, p.wf = true → resolve p 0x00000000 = defaultVariant p ∧ resolve p 0xFFFFFFFF = defaultVariant p) ∧
  (∀ (p : Params) (id : Word), (resolve p id).pinmap =
      (if (resolve p id).legacyPins then p.pinmapSwapped else p.pinmapDefault) ∧
    ((resolve p id).mcuAllowed = true ↔ id = p.mcuFwDevice) ∧
    (resolve p id).nBursts = (if (resolve p id).extendedErase then 65 else 1) ∧
    (resolve p id).tWord p = (if (resolve p id).extendedErase then p.tWordLong else p.tWord)) ∧
  (∀ p : Params, p.wf = true →
    (∃ id, (resolve p id).legacyPins = true ∧ ∀ id', (resolve p id').legacyPins = true → id' = id) ∧
    (∀ id, (resolve p id).extFlashForced = !(resolve p id).checksumKnown) ∧
    (∃ id, (resolve p id).extFlashForced = true) ∧ (∃ id, (resolve p id).spiEncoding = .encB) ∧
    (∃ id, (resolve p id).extExit = .disableNoop))

/-- R391: construction: the identity read alone on the wire, ID its value, the variant resolved, EXT_SEL the variant's, IDLE;
from the machine before construction it gives the machine at reset. -/
def Obligations.Construction : Prop :=
  (∀ (p : Params) (x : Transport),
    reaches { State.constructed p 0 x with device := [], pc := .at .construct 0 }
      (State.constructed p (leWordOf (x.answer 32)) (afterOps x (readOps p.op .readIdcode)))) ∧
  (∃ k, runSteps k State.unconstructed = .next State.reset) ∧
  (∀ (p : Params) (x : Transport) (rs : List (List Byte)), x.replies = [0x1B, 0x28, 0x00, 0x09] :: rs →
    leWordOf (x.answer 32) = 0x0900281B ∧ (resolve p 0x0900281B).nBursts = 65)

/-- R54: the values at construction that the rule states. The identity and the parameters are free values (logs 4, 8). -/
def Obligations.ResetValues : Prop :=
  State.reset.id = leWordOf (((Transport.fresh Config.params).sendCommand (State.reset.cfg.op.code .readIdcode)).answer 32) ∧
  State.reset.var = resolve State.reset.cfg State.reset.id ∧ State.reset.mode = none ∧
  State.reset.extSel = State.reset.var.extFlashForced ∧ State.reset.mcuImgSel = false ∧
  State.reset.verifyReq = false ∧ State.reset.unprotect = false ∧ State.reset.offset = 0 ∧ State.reset.st = none ∧
  State.reset.uc = none ∧ State.reset.txb = [] ∧ State.reset.rxb = [] ∧ State.reset.result = none ∧
  State.reset.log = [] ∧ State.reset.pc = .idle ∧ State.reset.xport.freq = State.reset.cfg.fInit

/-- R70, R71 and the image memory: what MemRead gives and when; an image of bytes reads as them; a canonical memory is
known by its reads; writing keeps the form and changes one byte. -/
def Obligations.ImageMemory : Prop :=
  (∀ (im : Image) (addr n : Nat), (addr + n ≤ im.bitLen / 8 →
      im.memRead addr n = some ((List.range n).map fun i => im.mem.read (addr + i))) ∧
    (im.bitLen / 8 < addr + n → im.memRead addr n = none)) ∧
  (∀ bs : List Byte, (Memory.ofBytes bs).wf = true ∧ (Image.ofBytes bs).memRead 0 bs.length = some bs) ∧
  (∀ m m' : Memory, m.wf = true → m'.wf = true → (∀ a, m.read a = m'.read a) → m = m') ∧
  (∀ (m : Memory) (a : Nat) (b : Byte), m.wf = true → (m.write a b).wf = true ∧ (m.write a b).read a = b ∧
    ∀ a', a' ≠ a → (m.write a b).read a' = m.read a')

/-! ## What every step keeps -/

/-- R33, R34, R371: a step keeps the step pointer legal, and leaves it at a transport operation, at the external algorithm's
step, or IDLE; no legal state has more than three callers. -/
def Obligations.ControlKept : Prop :=
  (∀ s t : State, s.controlOk = true → step s = .next t →
    t.controlOk = true ∧ (s.atRest = true → t.atRest = true)) ∧
  (∀ s : State, s.controlOk = true → s.callers.length ≤ 3)

/-- R116, R173, R53: a step issues commands of the table only, each with its latch clocks behind it, and the transport
performs no more than went into its queue. -/
def Obligations.WireKept : Prop :=
  ∀ s t : State, s.controlOk = true → s.wireOk = true → step s = .next t → t.wireOk = true

/-- A step keeps every image in canonical form (the model's form, log 12), and only the host's attachments change an image
(R70, R72). -/
def Obligations.ImagesKept : Prop :=
  (∀ s t : State, s.memOk = true → step s = .next t → t.memOk = true) ∧
  (∀ s t : State, step s = .next t →
    (∀ b rest, s.pc = .idle → s.hostIn ≠ .attach b :: rest) → t.bs = s.bs) ∧
  (∀ s t : State, step s = .next t →
    (∀ im rest, s.pc = .idle → s.hostIn ≠ .setMcuImg (some im) :: rest) → t.mcu = s.mcu)

/-- What the setup checks established holds while the operation runs, with a legal chunk, PAGE the page in hand and a legal
attempt count; and in such a state no step faults. That CHUNK and PAGE show the low 32 bits of the loop's index is the model's
choice (log 23). -/
def Obligations.RunKept : Prop :=
  (∀ s t : State, s.runOk = true → step s = .next t → t.runOk = true) ∧
  (∀ s : State, s.runOk = true → faults (step s) = false)

/-- R54: ST is used only behind a status read of its sequence. -/
def Obligations.StatusKnownKept : Prop :=
  (∀ s t : State, s.controlOk = true → s.statusOk = true → (step s = .next t ∨ s.moved? = some t) →
    t.controlOk = true ∧ t.statusOk = true) ∧
  (∀ (s : State) (q : Seq) (n : Nat) (c : Ctl), s.controlOk = true → s.statusOk = true → s.pc = .at q n →
    microAt q n = some (.ctl c) → c.usesStatus = true → s.st.isSome = true)

/-- R375: no gated command takes effect before an enter, or behind a leave, of configuration edit mode. -/
def Obligations.EditGateKept : Prop :=
  ∀ s t : State, s.controlOk = true → s.gateOk = true → step s = .next t → t.gateOk = true

/-- R175, R176, R318, R405: the instruction register holds the command that a capture, or the external algorithm's
Encoding A shifts, rely on; so (R37) only a read of the status register writes ST, with the word it captured. -/
def Obligations.InstructionRegisterKept : Prop :=
  (∀ s t : State, s.controlOk = true → s.irOk = true → step s = .next t → t.irOk = true) ∧
  (∀ s t : State, s.controlOk = true → s.irOk = true → step s = .next t → t.st ≠ s.st →
    t.st = some (leWordOf (s.xport.answer 32)) ∧ t.xport.ir = s.cfg.op.code .readStatus ∧
    t.xport.draws = s.xport.draws + 1 ∧
    t.xport.issued = s.xport.issued ++ [.dr 32 [0xFF, 0xFF, 0xFF, 0xFF] .runTestIdle true])

/-- R402, R291: ProgramFlash runs at 2.5 MHz and ExternalFlash at 10 MHz behind their first step, and every clocked wait
counts at 2.5 MHz. -/
def Obligations.FrequencyKept : Prop :=
  (∀ s t : State, s.controlOk = true → s.freqOk = true → step s = .next t → t.freqOk = true) ∧
  (∀ (s : State) (q : Seq) (n : Nat) (d : Delay), engineTurn s → s.controlOk = true → s.freqOk = true →
    s.pc = .at q n → microAt q n = some (.op (.clkFor d)) → ∃ t, step s = .next t ∧
      t.xport.issued = s.xport.issued ++ clkUsOps 2500000 (s.delayUs d))

/-- R10, R41, R89: a step issues at most one operation; LOG, the operations issued and the device effects only grow at their
ends. -/
def Obligations.AppendOnly : Prop :=
  ∀ s t : State, step s = .next t →
    s.log <+: t.log ∧ s.device <+: t.device ∧ (t.xport.issued = s.xport.issued ∨ ∃ op, t.xport.issued = s.xport.issued ++ [op])

/-- R32, R35, R36, R344: ID, VAR and the parameters never change, and while a host operation runs neither do the
configuration registers, the operands of program, the images and the host's pending inputs. -/
def Obligations.ConfigurationKept : Prop :=
  ∀ s t : State, s.controlOk = true → step s = .next t →
    t.id = s.id ∧ t.var = s.var ∧ t.cfg = s.cfg ∧
    (s.pc ≠ .idle → t.mode = s.mode ∧ t.extSel = s.extSel ∧ t.mcuImgSel = s.mcuImgSel ∧ t.verifyReq = s.verifyReq ∧
      t.offset = s.offset ∧ t.unprotect = s.unprotect ∧ t.bs = s.bs ∧ t.mcu = s.mcu ∧ t.hostIn = s.hostIn)

/-- R369, R34: RESULT changes only where a host operation ends, in a step of its sequence or with the ConfigError of a program
request; and where a running operation ends, the step leaves the same state whatever RESULT held before: no stale outcome
stands. -/
def Obligations.ResultAtEnd : Prop :=
  ∀ s t : State, s.controlOk = true → step s = .next t →
    (t.result ≠ s.result → t.pc = .idle ∧ (s.pc = .idle →
      ∃ bs rest left o u c, s.hostIn = .request bs :: rest ∧
        decode s.cfg.op .host bs = .ok (.program o u, left) ∧ t.result = some (.fatal c 0))) ∧
    (s.pc ≠ .idle → t.pc = .idle →
      (∃ o, t.result = some o) ∧ ∀ r, step { s with result := r } = .next t)

/-- R10, R53, R90, R171: with operations in its queue the transport performs the oldest of them, and changes nothing else, when
the free choice of log 6 says so; in every other case the step is the engine's; behind a step whose operation is a flush or a
captured shift, the whole queue is performed; and a Sleep is over with its step: no Sleep ever stands in the queue, and its step
leaves the queue as it was, with nothing issued besides. That the wait is one step is the model's choice (log 31). -/
def Obligations.TransportSteps : Prop :=
  (∀ s : State, s.xport.queue ≠ [] →
    step s = if Config.xportMoves s.xport.issued.length s.xport.performed then
        .next (s.withPerformed (s.xport.performed + 1)) else engineStep s) ∧
  (∀ s : State, s.xport.queue = [] → engineTurn s ∧ step s = engineStep s) ∧
  (∀ s t : State, step s = .next t → t.xport.issued ≠ s.xport.issued →
    (t.xport.issued.getLast? = some .flush ∨ ∃ n out e, t.xport.issued.getLast? = some (.dr n out e true)) →
    t.xport.queue = [] ∧ t.xport.performed = t.xport.queued.length) ∧
  (∀ (s : State) (q : Seq) (n : Nat) (us : Word), s.pc = .at q n → microAt q n = some (.op (.sleep us)) →
    ∃ t, engineStep s = .next t ∧ t.xport = { s.xport with issued := s.xport.issued ++ [.sleep us] } ∧
      t.xport.queue = s.xport.queue) ∧
  (∀ (x : Transport) (us : Word), .sleep us ∉ x.queue)

/-- The machine at reset meets every invariant above: the run invariant with the free parameters of log 4, an ATTEMPT that is
the model's choice (log 9) and the images and inputs of log 13. -/
def Obligations.InvariantsAtReset : Prop :=
  State.reset.controlOk = true ∧ State.reset.atRest = true ∧ State.reset.wireOk = true ∧ State.reset.memOk = true ∧
  State.reset.runOk = true ∧ State.reset.statusOk = true ∧ State.reset.gateOk = true ∧ State.reset.irOk = true ∧
  State.reset.freqOk = true
end

