-- ==== Sys2Proof/Laws/State.lean ====
section
/-! SUPPORT. One lemma for each field of State and each update of a shared operation, true by rfl; and the transport
primitives and the small operations rewritten to those updates. -/

namespace Sys2Proof.Machine

/-! onXport -/

@[simp] theorem State.onXport_id (s : State) (f : Transport → Transport) : (s.onXport f).id = s.id := rfl
@[simp] theorem State.onXport_var (s : State) (f : Transport → Transport) : (s.onXport f).var = s.var := rfl
@[simp] theorem State.onXport_mode (s : State) (f : Transport → Transport) : (s.onXport f).mode = s.mode := rfl
@[simp] theorem State.onXport_extSel (s : State) (f : Transport → Transport) : (s.onXport f).extSel = s.extSel := rfl
@[simp] theorem State.onXport_mcuImgSel (s : State) (f : Transport → Transport) : (s.onXport f).mcuImgSel = s.mcuImgSel := rfl
@[simp] theorem State.onXport_verifyReq (s : State) (f : Transport → Transport) : (s.onXport f).verifyReq = s.verifyReq := rfl
@[simp] theorem State.onXport_offset (s : State) (f : Transport → Transport) : (s.onXport f).offset = s.offset := rfl
@[simp] theorem State.onXport_unprotect (s : State) (f : Transport → Transport) : (s.onXport f).unprotect = s.unprotect := rfl
@[simp] theorem State.onXport_st (s : State) (f : Transport → Transport) : (s.onXport f).st = s.st := rfl
@[simp] theorem State.onXport_uc (s : State) (f : Transport → Transport) : (s.onXport f).uc = s.uc := rfl
@[simp] theorem State.onXport_attempt (s : State) (f : Transport → Transport) : (s.onXport f).attempt = s.attempt := rfl
@[simp] theorem State.onXport_pollCnt (s : State) (f : Transport → Transport) : (s.onXport f).pollCnt = s.pollCnt := rfl
@[simp] theorem State.onXport_page (s : State) (f : Transport → Transport) : (s.onXport f).page = s.page := rfl
@[simp] theorem State.onXport_word (s : State) (f : Transport → Transport) : (s.onXport f).word = s.word := rfl
@[simp] theorem State.onXport_chunk (s : State) (f : Transport → Transport) : (s.onXport f).chunk = s.chunk := rfl
@[simp] theorem State.onXport_bit (s : State) (f : Transport → Transport) : (s.onXport f).bit = s.bit := rfl
@[simp] theorem State.onXport_txb (s : State) (f : Transport → Transport) : (s.onXport f).txb = s.txb := rfl
@[simp] theorem State.onXport_rxb (s : State) (f : Transport → Transport) : (s.onXport f).rxb = s.rxb := rfl
@[simp] theorem State.onXport_result (s : State) (f : Transport → Transport) : (s.onXport f).result = s.result := rfl
@[simp] theorem State.onXport_log (s : State) (f : Transport → Transport) : (s.onXport f).log = s.log := rfl
@[simp] theorem State.onXport_pc (s : State) (f : Transport → Transport) : (s.onXport f).pc = s.pc := rfl
@[simp] theorem State.onXport_callers (s : State) (f : Transport → Transport) : (s.onXport f).callers = s.callers := rfl
@[simp] theorem State.onXport_fsm (s : State) (f : Transport → Transport) : (s.onXport f).fsm = s.fsm := rfl
@[simp] theorem State.onXport_xport (s : State) (f : Transport → Transport) : (s.onXport f).xport = f s.xport := rfl
@[simp] theorem State.onXport_device (s : State) (f : Transport → Transport) : (s.onXport f).device = s.device := rfl
@[simp] theorem State.onXport_bs (s : State) (f : Transport → Transport) : (s.onXport f).bs = s.bs := rfl
@[simp] theorem State.onXport_mcu (s : State) (f : Transport → Transport) : (s.onXport f).mcu = s.mcu := rfl
@[simp] theorem State.onXport_hostIn (s : State) (f : Transport → Transport) : (s.onXport f).hostIn = s.hostIn := rfl
@[simp] theorem State.onXport_extIn (s : State) (f : Transport → Transport) : (s.onXport f).extIn = s.extIn := rfl
@[simp] theorem State.onXport_returned (s : State) (f : Transport → Transport) : (s.onXport f).returned = s.returned := rfl
@[simp] theorem State.onXport_spiReply (s : State) (f : Transport → Transport) : (s.onXport f).spiReply = s.spiReply := rfl
@[simp] theorem State.onXport_cfg (s : State) (f : Transport → Transport) : (s.onXport f).cfg = s.cfg := rfl

/-! shiftCommand -/

@[simp] theorem State.shiftCommand_id (s : State) (c : Cmd) (e : Option DeviceEffect) : (s.shiftCommand c e).id = s.id := rfl
@[simp] theorem State.shiftCommand_var (s : State) (c : Cmd) (e : Option DeviceEffect) : (s.shiftCommand c e).var = s.var := rfl
@[simp] theorem State.shiftCommand_mode (s : State) (c : Cmd) (e : Option DeviceEffect) : (s.shiftCommand c e).mode = s.mode := rfl
@[simp] theorem State.shiftCommand_extSel (s : State) (c : Cmd) (e : Option DeviceEffect) : (s.shiftCommand c e).extSel = s.extSel := rfl
@[simp] theorem State.shiftCommand_mcuImgSel (s : State) (c : Cmd) (e : Option DeviceEffect) : (s.shiftCommand c e).mcuImgSel = s.mcuImgSel := rfl
@[simp] theorem State.shiftCommand_verifyReq (s : State) (c : Cmd) (e : Option DeviceEffect) : (s.shiftCommand c e).verifyReq = s.verifyReq := rfl
@[simp] theorem State.shiftCommand_offset (s : State) (c : Cmd) (e : Option DeviceEffect) : (s.shiftCommand c e).offset = s.offset := rfl
@[simp] theorem State.shiftCommand_unprotect (s : State) (c : Cmd) (e : Option DeviceEffect) : (s.shiftCommand c e).unprotect = s.unprotect := rfl
@[simp] theorem State.shiftCommand_st (s : State) (c : Cmd) (e : Option DeviceEffect) : (s.shiftCommand c e).st = s.st := rfl
@[simp] theorem State.shiftCommand_uc (s : State) (c : Cmd) (e : Option DeviceEffect) : (s.shiftCommand c e).uc = s.uc := rfl
@[simp] theorem State.shiftCommand_attempt (s : State) (c : Cmd) (e : Option DeviceEffect) : (s.shiftCommand c e).attempt = s.attempt := rfl
@[simp] theorem State.shiftCommand_pollCnt (s : State) (c : Cmd) (e : Option DeviceEffect) : (s.shiftCommand c e).pollCnt = s.pollCnt := rfl
@[simp] theorem State.shiftCommand_page (s : State) (c : Cmd) (e : Option DeviceEffect) : (s.shiftCommand c e).page = s.page := rfl
@[simp] theorem State.shiftCommand_word (s : State) (c : Cmd) (e : Option DeviceEffect) : (s.shiftCommand c e).word = s.word := rfl
@[simp] theorem State.shiftCommand_chunk (s : State) (c : Cmd) (e : Option DeviceEffect) : (s.shiftCommand c e).chunk = s.chunk := rfl
@[simp] theorem State.shiftCommand_bit (s : State) (c : Cmd) (e : Option DeviceEffect) : (s.shiftCommand c e).bit = s.bit := rfl
@[simp] theorem State.shiftCommand_txb (s : State) (c : Cmd) (e : Option DeviceEffect) : (s.shiftCommand c e).txb = s.txb := rfl
@[simp] theorem State.shiftCommand_rxb (s : State) (c : Cmd) (e : Option DeviceEffect) : (s.shiftCommand c e).rxb = s.rxb := rfl
@[simp] theorem State.shiftCommand_result (s : State) (c : Cmd) (e : Option DeviceEffect) : (s.shiftCommand c e).result = s.result := rfl
@[simp] theorem State.shiftCommand_log (s : State) (c : Cmd) (e : Option DeviceEffect) : (s.shiftCommand c e).log = s.log := rfl
@[simp] theorem State.shiftCommand_pc (s : State) (c : Cmd) (e : Option DeviceEffect) : (s.shiftCommand c e).pc = s.pc := rfl
@[simp] theorem State.shiftCommand_callers (s : State) (c : Cmd) (e : Option DeviceEffect) : (s.shiftCommand c e).callers = s.callers := rfl
@[simp] theorem State.shiftCommand_fsm (s : State) (c : Cmd) (e : Option DeviceEffect) : (s.shiftCommand c e).fsm = { s.fsm with latch := e } := rfl
@[simp] theorem State.shiftCommand_xport (s : State) (c : Cmd) (e : Option DeviceEffect) : (s.shiftCommand c e).xport = s.xport.shiftIR (s.cfg.op.code c) := rfl
@[simp] theorem State.shiftCommand_device (s : State) (c : Cmd) (e : Option DeviceEffect) : (s.shiftCommand c e).device = s.device := rfl
@[simp] theorem State.shiftCommand_bs (s : State) (c : Cmd) (e : Option DeviceEffect) : (s.shiftCommand c e).bs = s.bs := rfl
@[simp] theorem State.shiftCommand_mcu (s : State) (c : Cmd) (e : Option DeviceEffect) : (s.shiftCommand c e).mcu = s.mcu := rfl
@[simp] theorem State.shiftCommand_hostIn (s : State) (c : Cmd) (e : Option DeviceEffect) : (s.shiftCommand c e).hostIn = s.hostIn := rfl
@[simp] theorem State.shiftCommand_extIn (s : State) (c : Cmd) (e : Option DeviceEffect) : (s.shiftCommand c e).extIn = s.extIn := rfl
@[simp] theorem State.shiftCommand_returned (s : State) (c : Cmd) (e : Option DeviceEffect) : (s.shiftCommand c e).returned = s.returned := rfl
@[simp] theorem State.shiftCommand_spiReply (s : State) (c : Cmd) (e : Option DeviceEffect) : (s.shiftCommand c e).spiReply = s.spiReply := rfl
@[simp] theorem State.shiftCommand_cfg (s : State) (c : Cmd) (e : Option DeviceEffect) : (s.shiftCommand c e).cfg = s.cfg := rfl

/-! latchCommand -/

@[simp] theorem State.latchCommand_id (s : State) : s.latchCommand.id = s.id := rfl
@[simp] theorem State.latchCommand_var (s : State) : s.latchCommand.var = s.var := rfl
@[simp] theorem State.latchCommand_mode (s : State) : s.latchCommand.mode = s.mode := rfl
@[simp] theorem State.latchCommand_extSel (s : State) : s.latchCommand.extSel = s.extSel := rfl
@[simp] theorem State.latchCommand_mcuImgSel (s : State) : s.latchCommand.mcuImgSel = s.mcuImgSel := rfl
@[simp] theorem State.latchCommand_verifyReq (s : State) : s.latchCommand.verifyReq = s.verifyReq := rfl
@[simp] theorem State.latchCommand_offset (s : State) : s.latchCommand.offset = s.offset := rfl
@[simp] theorem State.latchCommand_unprotect (s : State) : s.latchCommand.unprotect = s.unprotect := rfl
@[simp] theorem State.latchCommand_st (s : State) : s.latchCommand.st = s.st := rfl
@[simp] theorem State.latchCommand_uc (s : State) : s.latchCommand.uc = s.uc := rfl
@[simp] theorem State.latchCommand_attempt (s : State) : s.latchCommand.attempt = s.attempt := rfl
@[simp] theorem State.latchCommand_pollCnt (s : State) : s.latchCommand.pollCnt = s.pollCnt := rfl
@[simp] theorem State.latchCommand_page (s : State) : s.latchCommand.page = s.page := rfl
@[simp] theorem State.latchCommand_word (s : State) : s.latchCommand.word = s.word := rfl
@[simp] theorem State.latchCommand_chunk (s : State) : s.latchCommand.chunk = s.chunk := rfl
@[simp] theorem State.latchCommand_bit (s : State) : s.latchCommand.bit = s.bit := rfl
@[simp] theorem State.latchCommand_txb (s : State) : s.latchCommand.txb = s.txb := rfl
@[simp] theorem State.latchCommand_rxb (s : State) : s.latchCommand.rxb = s.rxb := rfl
@[simp] theorem State.latchCommand_result (s : State) : s.latchCommand.result = s.result := rfl
@[simp] theorem State.latchCommand_log (s : State) : s.latchCommand.log = s.log := rfl
@[simp] theorem State.latchCommand_pc (s : State) : s.latchCommand.pc = s.pc := rfl
@[simp] theorem State.latchCommand_callers (s : State) : s.latchCommand.callers = s.callers := rfl
@[simp] theorem State.latchCommand_fsm (s : State) : s.latchCommand.fsm = { s.fsm with latch := none } := rfl
@[simp] theorem State.latchCommand_xport (s : State) : s.latchCommand.xport = s.xport.toggle latchClocks := rfl
@[simp] theorem State.latchCommand_device (s : State) : s.latchCommand.device = s.device ++ s.fsm.latch.toList := rfl
@[simp] theorem State.latchCommand_bs (s : State) : s.latchCommand.bs = s.bs := rfl
@[simp] theorem State.latchCommand_mcu (s : State) : s.latchCommand.mcu = s.mcu := rfl
@[simp] theorem State.latchCommand_hostIn (s : State) : s.latchCommand.hostIn = s.hostIn := rfl
@[simp] theorem State.latchCommand_extIn (s : State) : s.latchCommand.extIn = s.extIn := rfl
@[simp] theorem State.latchCommand_returned (s : State) : s.latchCommand.returned = s.returned := rfl
@[simp] theorem State.latchCommand_spiReply (s : State) : s.latchCommand.spiReply = s.spiReply := rfl
@[simp] theorem State.latchCommand_cfg (s : State) : s.latchCommand.cfg = s.cfg := rfl

/-! logEntry -/

@[simp] theorem State.logEntry_id (s : State) (k : LogKind) (c : Code) (v : Word) : (s.logEntry k c v).id = s.id := rfl
@[simp] theorem State.logEntry_var (s : State) (k : LogKind) (c : Code) (v : Word) : (s.logEntry k c v).var = s.var := rfl
@[simp] theorem State.logEntry_mode (s : State) (k : LogKind) (c : Code) (v : Word) : (s.logEntry k c v).mode = s.mode := rfl
@[simp] theorem State.logEntry_extSel (s : State) (k : LogKind) (c : Code) (v : Word) : (s.logEntry k c v).extSel = s.extSel := rfl
@[simp] theorem State.logEntry_mcuImgSel (s : State) (k : LogKind) (c : Code) (v : Word) : (s.logEntry k c v).mcuImgSel = s.mcuImgSel := rfl
@[simp] theorem State.logEntry_verifyReq (s : State) (k : LogKind) (c : Code) (v : Word) : (s.logEntry k c v).verifyReq = s.verifyReq := rfl
@[simp] theorem State.logEntry_offset (s : State) (k : LogKind) (c : Code) (v : Word) : (s.logEntry k c v).offset = s.offset := rfl
@[simp] theorem State.logEntry_unprotect (s : State) (k : LogKind) (c : Code) (v : Word) : (s.logEntry k c v).unprotect = s.unprotect := rfl
@[simp] theorem State.logEntry_st (s : State) (k : LogKind) (c : Code) (v : Word) : (s.logEntry k c v).st = s.st := rfl
@[simp] theorem State.logEntry_uc (s : State) (k : LogKind) (c : Code) (v : Word) : (s.logEntry k c v).uc = s.uc := rfl
@[simp] theorem State.logEntry_attempt (s : State) (k : LogKind) (c : Code) (v : Word) : (s.logEntry k c v).attempt = s.attempt := rfl
@[simp] theorem State.logEntry_pollCnt (s : State) (k : LogKind) (c : Code) (v : Word) : (s.logEntry k c v).pollCnt = s.pollCnt := rfl
@[simp] theorem State.logEntry_page (s : State) (k : LogKind) (c : Code) (v : Word) : (s.logEntry k c v).page = s.page := rfl
@[simp] theorem State.logEntry_word (s : State) (k : LogKind) (c : Code) (v : Word) : (s.logEntry k c v).word = s.word := rfl
@[simp] theorem State.logEntry_chunk (s : State) (k : LogKind) (c : Code) (v : Word) : (s.logEntry k c v).chunk = s.chunk := rfl
@[simp] theorem State.logEntry_bit (s : State) (k : LogKind) (c : Code) (v : Word) : (s.logEntry k c v).bit = s.bit := rfl
@[simp] theorem State.logEntry_txb (s : State) (k : LogKind) (c : Code) (v : Word) : (s.logEntry k c v).txb = s.txb := rfl
@[simp] theorem State.logEntry_rxb (s : State) (k : LogKind) (c : Code) (v : Word) : (s.logEntry k c v).rxb = s.rxb := rfl
@[simp] theorem State.logEntry_result (s : State) (k : LogKind) (c : Code) (v : Word) : (s.logEntry k c v).result = s.result := rfl
@[simp] theorem State.logEntry_log (s : State) (k : LogKind) (c : Code) (v : Word) : (s.logEntry k c v).log = s.log ++ [⟨k, c, v⟩] := rfl
@[simp] theorem State.logEntry_pc (s : State) (k : LogKind) (c : Code) (v : Word) : (s.logEntry k c v).pc = s.pc := rfl
@[simp] theorem State.logEntry_callers (s : State) (k : LogKind) (c : Code) (v : Word) : (s.logEntry k c v).callers = s.callers := rfl
@[simp] theorem State.logEntry_fsm (s : State) (k : LogKind) (c : Code) (v : Word) : (s.logEntry k c v).fsm = s.fsm := rfl
@[simp] theorem State.logEntry_xport (s : State) (k : LogKind) (c : Code) (v : Word) : (s.logEntry k c v).xport = s.xport := rfl
@[simp] theorem State.logEntry_device (s : State) (k : LogKind) (c : Code) (v : Word) : (s.logEntry k c v).device = s.device := rfl
@[simp] theorem State.logEntry_bs (s : State) (k : LogKind) (c : Code) (v : Word) : (s.logEntry k c v).bs = s.bs := rfl
@[simp] theorem State.logEntry_mcu (s : State) (k : LogKind) (c : Code) (v : Word) : (s.logEntry k c v).mcu = s.mcu := rfl
@[simp] theorem State.logEntry_hostIn (s : State) (k : LogKind) (c : Code) (v : Word) : (s.logEntry k c v).hostIn = s.hostIn := rfl
@[simp] theorem State.logEntry_extIn (s : State) (k : LogKind) (c : Code) (v : Word) : (s.logEntry k c v).extIn = s.extIn := rfl
@[simp] theorem State.logEntry_returned (s : State) (k : LogKind) (c : Code) (v : Word) : (s.logEntry k c v).returned = s.returned := rfl
@[simp] theorem State.logEntry_spiReply (s : State) (k : LogKind) (c : Code) (v : Word) : (s.logEntry k c v).spiReply = s.spiReply := rfl
@[simp] theorem State.logEntry_cfg (s : State) (k : LogKind) (c : Code) (v : Word) : (s.logEntry k c v).cfg = s.cfg := rfl

/-! goto -/

@[simp] theorem State.goto_id (s : State) (q : Seq) (n : Nat) : (s.goto q n).id = s.id := rfl
@[simp] theorem State.goto_var (s : State) (q : Seq) (n : Nat) : (s.goto q n).var = s.var := rfl
@[simp] theorem State.goto_mode (s : State) (q : Seq) (n : Nat) : (s.goto q n).mode = s.mode := rfl
@[simp] theorem State.goto_extSel (s : State) (q : Seq) (n : Nat) : (s.goto q n).extSel = s.extSel := rfl
@[simp] theorem State.goto_mcuImgSel (s : State) (q : Seq) (n : Nat) : (s.goto q n).mcuImgSel = s.mcuImgSel := rfl
@[simp] theorem State.goto_verifyReq (s : State) (q : Seq) (n : Nat) : (s.goto q n).verifyReq = s.verifyReq := rfl
@[simp] theorem State.goto_offset (s : State) (q : Seq) (n : Nat) : (s.goto q n).offset = s.offset := rfl
@[simp] theorem State.goto_unprotect (s : State) (q : Seq) (n : Nat) : (s.goto q n).unprotect = s.unprotect := rfl
@[simp] theorem State.goto_st (s : State) (q : Seq) (n : Nat) : (s.goto q n).st = s.st := rfl
@[simp] theorem State.goto_uc (s : State) (q : Seq) (n : Nat) : (s.goto q n).uc = s.uc := rfl
@[simp] theorem State.goto_attempt (s : State) (q : Seq) (n : Nat) : (s.goto q n).attempt = s.attempt := rfl
@[simp] theorem State.goto_pollCnt (s : State) (q : Seq) (n : Nat) : (s.goto q n).pollCnt = s.pollCnt := rfl
@[simp] theorem State.goto_page (s : State) (q : Seq) (n : Nat) : (s.goto q n).page = s.page := rfl
@[simp] theorem State.goto_word (s : State) (q : Seq) (n : Nat) : (s.goto q n).word = s.word := rfl
@[simp] theorem State.goto_chunk (s : State) (q : Seq) (n : Nat) : (s.goto q n).chunk = s.chunk := rfl
@[simp] theorem State.goto_bit (s : State) (q : Seq) (n : Nat) : (s.goto q n).bit = s.bit := rfl
@[simp] theorem State.goto_txb (s : State) (q : Seq) (n : Nat) : (s.goto q n).txb = s.txb := rfl
@[simp] theorem State.goto_rxb (s : State) (q : Seq) (n : Nat) : (s.goto q n).rxb = s.rxb := rfl
@[simp] theorem State.goto_result (s : State) (q : Seq) (n : Nat) : (s.goto q n).result = s.result := rfl
@[simp] theorem State.goto_log (s : State) (q : Seq) (n : Nat) : (s.goto q n).log = s.log := rfl
@[simp] theorem State.goto_pc (s : State) (q : Seq) (n : Nat) : (s.goto q n).pc = .at q n := rfl
@[simp] theorem State.goto_callers (s : State) (q : Seq) (n : Nat) : (s.goto q n).callers = s.callers := rfl
@[simp] theorem State.goto_fsm (s : State) (q : Seq) (n : Nat) : (s.goto q n).fsm = s.fsm := rfl
@[simp] theorem State.goto_xport (s : State) (q : Seq) (n : Nat) : (s.goto q n).xport = s.xport := rfl
@[simp] theorem State.goto_device (s : State) (q : Seq) (n : Nat) : (s.goto q n).device = s.device := rfl
@[simp] theorem State.goto_bs (s : State) (q : Seq) (n : Nat) : (s.goto q n).bs = s.bs := rfl
@[simp] theorem State.goto_mcu (s : State) (q : Seq) (n : Nat) : (s.goto q n).mcu = s.mcu := rfl
@[simp] theorem State.goto_hostIn (s : State) (q : Seq) (n : Nat) : (s.goto q n).hostIn = s.hostIn := rfl
@[simp] theorem State.goto_extIn (s : State) (q : Seq) (n : Nat) : (s.goto q n).extIn = s.extIn := rfl
@[simp] theorem State.goto_returned (s : State) (q : Seq) (n : Nat) : (s.goto q n).returned = s.returned := rfl
@[simp] theorem State.goto_spiReply (s : State) (q : Seq) (n : Nat) : (s.goto q n).spiReply = s.spiReply := rfl
@[simp] theorem State.goto_cfg (s : State) (q : Seq) (n : Nat) : (s.goto q n).cfg = s.cfg := rfl

/-! loopTo -/

@[simp] theorem State.loopTo_id (s : State) (i : Nat) (q : Seq) (n : Nat) : (s.loopTo i q n).id = s.id := rfl
@[simp] theorem State.loopTo_var (s : State) (i : Nat) (q : Seq) (n : Nat) : (s.loopTo i q n).var = s.var := rfl
@[simp] theorem State.loopTo_mode (s : State) (i : Nat) (q : Seq) (n : Nat) : (s.loopTo i q n).mode = s.mode := rfl
@[simp] theorem State.loopTo_extSel (s : State) (i : Nat) (q : Seq) (n : Nat) : (s.loopTo i q n).extSel = s.extSel := rfl
@[simp] theorem State.loopTo_mcuImgSel (s : State) (i : Nat) (q : Seq) (n : Nat) : (s.loopTo i q n).mcuImgSel = s.mcuImgSel := rfl
@[simp] theorem State.loopTo_verifyReq (s : State) (i : Nat) (q : Seq) (n : Nat) : (s.loopTo i q n).verifyReq = s.verifyReq := rfl
@[simp] theorem State.loopTo_offset (s : State) (i : Nat) (q : Seq) (n : Nat) : (s.loopTo i q n).offset = s.offset := rfl
@[simp] theorem State.loopTo_unprotect (s : State) (i : Nat) (q : Seq) (n : Nat) : (s.loopTo i q n).unprotect = s.unprotect := rfl
@[simp] theorem State.loopTo_st (s : State) (i : Nat) (q : Seq) (n : Nat) : (s.loopTo i q n).st = s.st := rfl
@[simp] theorem State.loopTo_uc (s : State) (i : Nat) (q : Seq) (n : Nat) : (s.loopTo i q n).uc = s.uc := rfl
@[simp] theorem State.loopTo_attempt (s : State) (i : Nat) (q : Seq) (n : Nat) : (s.loopTo i q n).attempt = s.attempt := rfl
@[simp] theorem State.loopTo_pollCnt (s : State) (i : Nat) (q : Seq) (n : Nat) : (s.loopTo i q n).pollCnt = s.pollCnt := rfl
@[simp] theorem State.loopTo_page (s : State) (i : Nat) (q : Seq) (n : Nat) : (s.loopTo i q n).page = s.page := rfl
@[simp] theorem State.loopTo_word (s : State) (i : Nat) (q : Seq) (n : Nat) : (s.loopTo i q n).word = s.word := rfl
@[simp] theorem State.loopTo_chunk (s : State) (i : Nat) (q : Seq) (n : Nat) : (s.loopTo i q n).chunk = s.chunk := rfl
@[simp] theorem State.loopTo_bit (s : State) (i : Nat) (q : Seq) (n : Nat) : (s.loopTo i q n).bit = s.bit := rfl
@[simp] theorem State.loopTo_txb (s : State) (i : Nat) (q : Seq) (n : Nat) : (s.loopTo i q n).txb = s.txb := rfl
@[simp] theorem State.loopTo_rxb (s : State) (i : Nat) (q : Seq) (n : Nat) : (s.loopTo i q n).rxb = s.rxb := rfl
@[simp] theorem State.loopTo_result (s : State) (i : Nat) (q : Seq) (n : Nat) : (s.loopTo i q n).result = s.result := rfl
@[simp] theorem State.loopTo_log (s : State) (i : Nat) (q : Seq) (n : Nat) : (s.loopTo i q n).log = s.log := rfl
@[simp] theorem State.loopTo_pc (s : State) (i : Nat) (q : Seq) (n : Nat) : (s.loopTo i q n).pc = .at q n := rfl
@[simp] theorem State.loopTo_callers (s : State) (i : Nat) (q : Seq) (n : Nat) : (s.loopTo i q n).callers = s.callers := rfl
@[simp] theorem State.loopTo_fsm (s : State) (i : Nat) (q : Seq) (n : Nat) : (s.loopTo i q n).fsm = { s.fsm with index := i } := rfl
@[simp] theorem State.loopTo_xport (s : State) (i : Nat) (q : Seq) (n : Nat) : (s.loopTo i q n).xport = s.xport := rfl
@[simp] theorem State.loopTo_device (s : State) (i : Nat) (q : Seq) (n : Nat) : (s.loopTo i q n).device = s.device := rfl
@[simp] theorem State.loopTo_bs (s : State) (i : Nat) (q : Seq) (n : Nat) : (s.loopTo i q n).bs = s.bs := rfl
@[simp] theorem State.loopTo_mcu (s : State) (i : Nat) (q : Seq) (n : Nat) : (s.loopTo i q n).mcu = s.mcu := rfl
@[simp] theorem State.loopTo_hostIn (s : State) (i : Nat) (q : Seq) (n : Nat) : (s.loopTo i q n).hostIn = s.hostIn := rfl
@[simp] theorem State.loopTo_extIn (s : State) (i : Nat) (q : Seq) (n : Nat) : (s.loopTo i q n).extIn = s.extIn := rfl
@[simp] theorem State.loopTo_returned (s : State) (i : Nat) (q : Seq) (n : Nat) : (s.loopTo i q n).returned = s.returned := rfl
@[simp] theorem State.loopTo_spiReply (s : State) (i : Nat) (q : Seq) (n : Nat) : (s.loopTo i q n).spiReply = s.spiReply := rfl
@[simp] theorem State.loopTo_cfg (s : State) (i : Nat) (q : Seq) (n : Nat) : (s.loopTo i q n).cfg = s.cfg := rfl

/-! finish -/

@[simp] theorem State.finish_id (s : State) (o : SeqOutcome) : (s.finish o).id = s.id := rfl
@[simp] theorem State.finish_var (s : State) (o : SeqOutcome) : (s.finish o).var = s.var := rfl
@[simp] theorem State.finish_mode (s : State) (o : SeqOutcome) : (s.finish o).mode = s.mode := rfl
@[simp] theorem State.finish_extSel (s : State) (o : SeqOutcome) : (s.finish o).extSel = s.extSel := rfl
@[simp] theorem State.finish_mcuImgSel (s : State) (o : SeqOutcome) : (s.finish o).mcuImgSel = s.mcuImgSel := rfl
@[simp] theorem State.finish_verifyReq (s : State) (o : SeqOutcome) : (s.finish o).verifyReq = s.verifyReq := rfl
@[simp] theorem State.finish_offset (s : State) (o : SeqOutcome) : (s.finish o).offset = s.offset := rfl
@[simp] theorem State.finish_unprotect (s : State) (o : SeqOutcome) : (s.finish o).unprotect = s.unprotect := rfl
@[simp] theorem State.finish_st (s : State) (o : SeqOutcome) : (s.finish o).st = s.st := rfl
@[simp] theorem State.finish_uc (s : State) (o : SeqOutcome) : (s.finish o).uc = s.uc := rfl
@[simp] theorem State.finish_attempt (s : State) (o : SeqOutcome) : (s.finish o).attempt = s.attempt := rfl
@[simp] theorem State.finish_pollCnt (s : State) (o : SeqOutcome) : (s.finish o).pollCnt = s.pollCnt := rfl
@[simp] theorem State.finish_page (s : State) (o : SeqOutcome) : (s.finish o).page = s.page := rfl
@[simp] theorem State.finish_word (s : State) (o : SeqOutcome) : (s.finish o).word = s.word := rfl
@[simp] theorem State.finish_chunk (s : State) (o : SeqOutcome) : (s.finish o).chunk = s.chunk := rfl
@[simp] theorem State.finish_bit (s : State) (o : SeqOutcome) : (s.finish o).bit = s.bit := rfl
@[simp] theorem State.finish_txb (s : State) (o : SeqOutcome) : (s.finish o).txb = s.txb := rfl
@[simp] theorem State.finish_rxb (s : State) (o : SeqOutcome) : (s.finish o).rxb = s.rxb := rfl
@[simp] theorem State.finish_result (s : State) (o : SeqOutcome) : (s.finish o).result = some o := rfl
@[simp] theorem State.finish_log (s : State) (o : SeqOutcome) : (s.finish o).log = s.log := rfl
@[simp] theorem State.finish_pc (s : State) (o : SeqOutcome) : (s.finish o).pc = .idle := rfl
@[simp] theorem State.finish_callers (s : State) (o : SeqOutcome) : (s.finish o).callers = [] := rfl
@[simp] theorem State.finish_fsm (s : State) (o : SeqOutcome) : (s.finish o).fsm = s.fsm := rfl
@[simp] theorem State.finish_xport (s : State) (o : SeqOutcome) : (s.finish o).xport = s.xport := rfl
@[simp] theorem State.finish_device (s : State) (o : SeqOutcome) : (s.finish o).device = s.device := rfl
@[simp] theorem State.finish_bs (s : State) (o : SeqOutcome) : (s.finish o).bs = s.bs := rfl
@[simp] theorem State.finish_mcu (s : State) (o : SeqOutcome) : (s.finish o).mcu = s.mcu := rfl
@[simp] theorem State.finish_hostIn (s : State) (o : SeqOutcome) : (s.finish o).hostIn = s.hostIn := rfl
@[simp] theorem State.finish_extIn (s : State) (o : SeqOutcome) : (s.finish o).extIn = s.extIn := rfl
@[simp] theorem State.finish_returned (s : State) (o : SeqOutcome) : (s.finish o).returned = s.returned := rfl
@[simp] theorem State.finish_spiReply (s : State) (o : SeqOutcome) : (s.finish o).spiReply = s.spiReply := rfl
@[simp] theorem State.finish_cfg (s : State) (o : SeqOutcome) : (s.finish o).cfg = s.cfg := rfl

/-! callSeq -/

@[simp] theorem State.callSeq_id (s : State) (h : Seq) (r : Nat) (p : Bool) (q : Seq) : (s.callSeq h r p q).id = s.id := rfl
@[simp] theorem State.callSeq_var (s : State) (h : Seq) (r : Nat) (p : Bool) (q : Seq) : (s.callSeq h r p q).var = s.var := rfl
@[simp] theorem State.callSeq_mode (s : State) (h : Seq) (r : Nat) (p : Bool) (q : Seq) : (s.callSeq h r p q).mode = s.mode := rfl
@[simp] theorem State.callSeq_extSel (s : State) (h : Seq) (r : Nat) (p : Bool) (q : Seq) : (s.callSeq h r p q).extSel = s.extSel := rfl
@[simp] theorem State.callSeq_mcuImgSel (s : State) (h : Seq) (r : Nat) (p : Bool) (q : Seq) : (s.callSeq h r p q).mcuImgSel = s.mcuImgSel := rfl
@[simp] theorem State.callSeq_verifyReq (s : State) (h : Seq) (r : Nat) (p : Bool) (q : Seq) : (s.callSeq h r p q).verifyReq = s.verifyReq := rfl
@[simp] theorem State.callSeq_offset (s : State) (h : Seq) (r : Nat) (p : Bool) (q : Seq) : (s.callSeq h r p q).offset = s.offset := rfl
@[simp] theorem State.callSeq_unprotect (s : State) (h : Seq) (r : Nat) (p : Bool) (q : Seq) : (s.callSeq h r p q).unprotect = s.unprotect := rfl
@[simp] theorem State.callSeq_st (s : State) (h : Seq) (r : Nat) (p : Bool) (q : Seq) : (s.callSeq h r p q).st = s.st := rfl
@[simp] theorem State.callSeq_uc (s : State) (h : Seq) (r : Nat) (p : Bool) (q : Seq) : (s.callSeq h r p q).uc = s.uc := rfl
@[simp] theorem State.callSeq_attempt (s : State) (h : Seq) (r : Nat) (p : Bool) (q : Seq) : (s.callSeq h r p q).attempt = s.attempt := rfl
@[simp] theorem State.callSeq_pollCnt (s : State) (h : Seq) (r : Nat) (p : Bool) (q : Seq) : (s.callSeq h r p q).pollCnt = s.pollCnt := rfl
@[simp] theorem State.callSeq_page (s : State) (h : Seq) (r : Nat) (p : Bool) (q : Seq) : (s.callSeq h r p q).page = s.page := rfl
@[simp] theorem State.callSeq_word (s : State) (h : Seq) (r : Nat) (p : Bool) (q : Seq) : (s.callSeq h r p q).word = s.word := rfl
@[simp] theorem State.callSeq_chunk (s : State) (h : Seq) (r : Nat) (p : Bool) (q : Seq) : (s.callSeq h r p q).chunk = s.chunk := rfl
@[simp] theorem State.callSeq_bit (s : State) (h : Seq) (r : Nat) (p : Bool) (q : Seq) : (s.callSeq h r p q).bit = s.bit := rfl
@[simp] theorem State.callSeq_txb (s : State) (h : Seq) (r : Nat) (p : Bool) (q : Seq) : (s.callSeq h r p q).txb = s.txb := rfl
@[simp] theorem State.callSeq_rxb (s : State) (h : Seq) (r : Nat) (p : Bool) (q : Seq) : (s.callSeq h r p q).rxb = s.rxb := rfl
@[simp] theorem State.callSeq_result (s : State) (h : Seq) (r : Nat) (p : Bool) (q : Seq) : (s.callSeq h r p q).result = s.result := rfl
@[simp] theorem State.callSeq_log (s : State) (h : Seq) (r : Nat) (p : Bool) (q : Seq) : (s.callSeq h r p q).log = s.log := rfl
@[simp] theorem State.callSeq_pc (s : State) (h : Seq) (r : Nat) (p : Bool) (q : Seq) : (s.callSeq h r p q).pc = .at q 0 := rfl
@[simp] theorem State.callSeq_callers (s : State) (h : Seq) (r : Nat) (p : Bool) (q : Seq) : (s.callSeq h r p q).callers = ⟨h, r, p⟩ :: s.callers := rfl
@[simp] theorem State.callSeq_fsm (s : State) (h : Seq) (r : Nat) (p : Bool) (q : Seq) : (s.callSeq h r p q).fsm = s.fsm := rfl
@[simp] theorem State.callSeq_xport (s : State) (h : Seq) (r : Nat) (p : Bool) (q : Seq) : (s.callSeq h r p q).xport = s.xport := rfl
@[simp] theorem State.callSeq_device (s : State) (h : Seq) (r : Nat) (p : Bool) (q : Seq) : (s.callSeq h r p q).device = s.device := rfl
@[simp] theorem State.callSeq_bs (s : State) (h : Seq) (r : Nat) (p : Bool) (q : Seq) : (s.callSeq h r p q).bs = s.bs := rfl
@[simp] theorem State.callSeq_mcu (s : State) (h : Seq) (r : Nat) (p : Bool) (q : Seq) : (s.callSeq h r p q).mcu = s.mcu := rfl
@[simp] theorem State.callSeq_hostIn (s : State) (h : Seq) (r : Nat) (p : Bool) (q : Seq) : (s.callSeq h r p q).hostIn = s.hostIn := rfl
@[simp] theorem State.callSeq_extIn (s : State) (h : Seq) (r : Nat) (p : Bool) (q : Seq) : (s.callSeq h r p q).extIn = s.extIn := rfl
@[simp] theorem State.callSeq_returned (s : State) (h : Seq) (r : Nat) (p : Bool) (q : Seq) : (s.callSeq h r p q).returned = s.returned := rfl
@[simp] theorem State.callSeq_spiReply (s : State) (h : Seq) (r : Nat) (p : Bool) (q : Seq) : (s.callSeq h r p q).spiReply = s.spiReply := rfl
@[simp] theorem State.callSeq_cfg (s : State) (h : Seq) (r : Nat) (p : Bool) (q : Seq) : (s.callSeq h r p q).cfg = s.cfg := rfl

/-! latchProgram -/

@[simp] theorem State.latchProgram_id (s : State) (o : Word) (u : Bool) : (s.latchProgram o u).id = s.id := rfl
@[simp] theorem State.latchProgram_var (s : State) (o : Word) (u : Bool) : (s.latchProgram o u).var = s.var := rfl
@[simp] theorem State.latchProgram_mode (s : State) (o : Word) (u : Bool) : (s.latchProgram o u).mode = s.mode := rfl
@[simp] theorem State.latchProgram_extSel (s : State) (o : Word) (u : Bool) : (s.latchProgram o u).extSel = (s.extSel || s.var.extFlashForced) := rfl
@[simp] theorem State.latchProgram_mcuImgSel (s : State) (o : Word) (u : Bool) : (s.latchProgram o u).mcuImgSel = s.mcuImgSel := rfl
@[simp] theorem State.latchProgram_verifyReq (s : State) (o : Word) (u : Bool) : (s.latchProgram o u).verifyReq = s.verifyReq := rfl
@[simp] theorem State.latchProgram_offset (s : State) (o : Word) (u : Bool) : (s.latchProgram o u).offset = o := rfl
@[simp] theorem State.latchProgram_unprotect (s : State) (o : Word) (u : Bool) : (s.latchProgram o u).unprotect = u := rfl
@[simp] theorem State.latchProgram_st (s : State) (o : Word) (u : Bool) : (s.latchProgram o u).st = s.st := rfl
@[simp] theorem State.latchProgram_uc (s : State) (o : Word) (u : Bool) : (s.latchProgram o u).uc = s.uc := rfl
@[simp] theorem State.latchProgram_attempt (s : State) (o : Word) (u : Bool) : (s.latchProgram o u).attempt = s.attempt := rfl
@[simp] theorem State.latchProgram_pollCnt (s : State) (o : Word) (u : Bool) : (s.latchProgram o u).pollCnt = s.pollCnt := rfl
@[simp] theorem State.latchProgram_page (s : State) (o : Word) (u : Bool) : (s.latchProgram o u).page = s.page := rfl
@[simp] theorem State.latchProgram_word (s : State) (o : Word) (u : Bool) : (s.latchProgram o u).word = s.word := rfl
@[simp] theorem State.latchProgram_chunk (s : State) (o : Word) (u : Bool) : (s.latchProgram o u).chunk = s.chunk := rfl
@[simp] theorem State.latchProgram_bit (s : State) (o : Word) (u : Bool) : (s.latchProgram o u).bit = s.bit := rfl
@[simp] theorem State.latchProgram_txb (s : State) (o : Word) (u : Bool) : (s.latchProgram o u).txb = s.txb := rfl
@[simp] theorem State.latchProgram_rxb (s : State) (o : Word) (u : Bool) : (s.latchProgram o u).rxb = s.rxb := rfl
@[simp] theorem State.latchProgram_result (s : State) (o : Word) (u : Bool) : (s.latchProgram o u).result = s.result := rfl
@[simp] theorem State.latchProgram_log (s : State) (o : Word) (u : Bool) : (s.latchProgram o u).log = s.log := rfl
@[simp] theorem State.latchProgram_pc (s : State) (o : Word) (u : Bool) : (s.latchProgram o u).pc = s.pc := rfl
@[simp] theorem State.latchProgram_callers (s : State) (o : Word) (u : Bool) : (s.latchProgram o u).callers = s.callers := rfl
@[simp] theorem State.latchProgram_fsm (s : State) (o : Word) (u : Bool) : (s.latchProgram o u).fsm = s.fsm := rfl
@[simp] theorem State.latchProgram_xport (s : State) (o : Word) (u : Bool) : (s.latchProgram o u).xport = s.xport := rfl
@[simp] theorem State.latchProgram_device (s : State) (o : Word) (u : Bool) : (s.latchProgram o u).device = s.device := rfl
@[simp] theorem State.latchProgram_bs (s : State) (o : Word) (u : Bool) : (s.latchProgram o u).bs = s.bs := rfl
@[simp] theorem State.latchProgram_mcu (s : State) (o : Word) (u : Bool) : (s.latchProgram o u).mcu = s.mcu := rfl
@[simp] theorem State.latchProgram_hostIn (s : State) (o : Word) (u : Bool) : (s.latchProgram o u).hostIn = s.hostIn := rfl
@[simp] theorem State.latchProgram_extIn (s : State) (o : Word) (u : Bool) : (s.latchProgram o u).extIn = s.extIn := rfl
@[simp] theorem State.latchProgram_returned (s : State) (o : Word) (u : Bool) : (s.latchProgram o u).returned = none := rfl
@[simp] theorem State.latchProgram_spiReply (s : State) (o : Word) (u : Bool) : (s.latchProgram o u).spiReply = s.spiReply := rfl
@[simp] theorem State.latchProgram_cfg (s : State) (o : Word) (u : Bool) : (s.latchProgram o u).cfg = s.cfg := rfl

/-! popHost -/

@[simp] theorem State.popHost_id (s : State) : s.popHost.id = s.id := rfl
@[simp] theorem State.popHost_var (s : State) : s.popHost.var = s.var := rfl
@[simp] theorem State.popHost_mode (s : State) : s.popHost.mode = s.mode := rfl
@[simp] theorem State.popHost_extSel (s : State) : s.popHost.extSel = s.extSel := rfl
@[simp] theorem State.popHost_mcuImgSel (s : State) : s.popHost.mcuImgSel = s.mcuImgSel := rfl
@[simp] theorem State.popHost_verifyReq (s : State) : s.popHost.verifyReq = s.verifyReq := rfl
@[simp] theorem State.popHost_offset (s : State) : s.popHost.offset = s.offset := rfl
@[simp] theorem State.popHost_unprotect (s : State) : s.popHost.unprotect = s.unprotect := rfl
@[simp] theorem State.popHost_st (s : State) : s.popHost.st = s.st := rfl
@[simp] theorem State.popHost_uc (s : State) : s.popHost.uc = s.uc := rfl
@[simp] theorem State.popHost_attempt (s : State) : s.popHost.attempt = s.attempt := rfl
@[simp] theorem State.popHost_pollCnt (s : State) : s.popHost.pollCnt = s.pollCnt := rfl
@[simp] theorem State.popHost_page (s : State) : s.popHost.page = s.page := rfl
@[simp] theorem State.popHost_word (s : State) : s.popHost.word = s.word := rfl
@[simp] theorem State.popHost_chunk (s : State) : s.popHost.chunk = s.chunk := rfl
@[simp] theorem State.popHost_bit (s : State) : s.popHost.bit = s.bit := rfl
@[simp] theorem State.popHost_txb (s : State) : s.popHost.txb = s.txb := rfl
@[simp] theorem State.popHost_rxb (s : State) : s.popHost.rxb = s.rxb := rfl
@[simp] theorem State.popHost_result (s : State) : s.popHost.result = s.result := rfl
@[simp] theorem State.popHost_log (s : State) : s.popHost.log = s.log := rfl
@[simp] theorem State.popHost_pc (s : State) : s.popHost.pc = s.pc := rfl
@[simp] theorem State.popHost_callers (s : State) : s.popHost.callers = s.callers := rfl
@[simp] theorem State.popHost_fsm (s : State) : s.popHost.fsm = s.fsm := rfl
@[simp] theorem State.popHost_xport (s : State) : s.popHost.xport = s.xport := rfl
@[simp] theorem State.popHost_device (s : State) : s.popHost.device = s.device := rfl
@[simp] theorem State.popHost_bs (s : State) : s.popHost.bs = s.bs := rfl
@[simp] theorem State.popHost_mcu (s : State) : s.popHost.mcu = s.mcu := rfl
@[simp] theorem State.popHost_hostIn (s : State) : s.popHost.hostIn = s.hostIn.tail := rfl
@[simp] theorem State.popHost_extIn (s : State) : s.popHost.extIn = s.extIn := rfl
@[simp] theorem State.popHost_returned (s : State) : s.popHost.returned = s.returned := rfl
@[simp] theorem State.popHost_spiReply (s : State) : s.popHost.spiReply = s.spiReply := rfl
@[simp] theorem State.popHost_cfg (s : State) : s.popHost.cfg = s.cfg := rfl

/-! popExt -/

@[simp] theorem State.popExt_id (s : State) : s.popExt.id = s.id := rfl
@[simp] theorem State.popExt_var (s : State) : s.popExt.var = s.var := rfl
@[simp] theorem State.popExt_mode (s : State) : s.popExt.mode = s.mode := rfl
@[simp] theorem State.popExt_extSel (s : State) : s.popExt.extSel = s.extSel := rfl
@[simp] theorem State.popExt_mcuImgSel (s : State) : s.popExt.mcuImgSel = s.mcuImgSel := rfl
@[simp] theorem State.popExt_verifyReq (s : State) : s.popExt.verifyReq = s.verifyReq := rfl
@[simp] theorem State.popExt_offset (s : State) : s.popExt.offset = s.offset := rfl
@[simp] theorem State.popExt_unprotect (s : State) : s.popExt.unprotect = s.unprotect := rfl
@[simp] theorem State.popExt_st (s : State) : s.popExt.st = s.st := rfl
@[simp] theorem State.popExt_uc (s : State) : s.popExt.uc = s.uc := rfl
@[simp] theorem State.popExt_attempt (s : State) : s.popExt.attempt = s.attempt := rfl
@[simp] theorem State.popExt_pollCnt (s : State) : s.popExt.pollCnt = s.pollCnt := rfl
@[simp] theorem State.popExt_page (s : State) : s.popExt.page = s.page := rfl
@[simp] theorem State.popExt_word (s : State) : s.popExt.word = s.word := rfl
@[simp] theorem State.popExt_chunk (s : State) : s.popExt.chunk = s.chunk := rfl
@[simp] theorem State.popExt_bit (s : State) : s.popExt.bit = s.bit := rfl
@[simp] theorem State.popExt_txb (s : State) : s.popExt.txb = s.txb := rfl
@[simp] theorem State.popExt_rxb (s : State) : s.popExt.rxb = s.rxb := rfl
@[simp] theorem State.popExt_result (s : State) : s.popExt.result = s.result := rfl
@[simp] theorem State.popExt_log (s : State) : s.popExt.log = s.log := rfl
@[simp] theorem State.popExt_pc (s : State) : s.popExt.pc = s.pc := rfl
@[simp] theorem State.popExt_callers (s : State) : s.popExt.callers = s.callers := rfl
@[simp] theorem State.popExt_fsm (s : State) : s.popExt.fsm = s.fsm := rfl
@[simp] theorem State.popExt_xport (s : State) : s.popExt.xport = s.xport := rfl
@[simp] theorem State.popExt_device (s : State) : s.popExt.device = s.device := rfl
@[simp] theorem State.popExt_bs (s : State) : s.popExt.bs = s.bs := rfl
@[simp] theorem State.popExt_mcu (s : State) : s.popExt.mcu = s.mcu := rfl
@[simp] theorem State.popExt_hostIn (s : State) : s.popExt.hostIn = s.hostIn := rfl
@[simp] theorem State.popExt_extIn (s : State) : s.popExt.extIn = s.extIn.tail := rfl
@[simp] theorem State.popExt_returned (s : State) : s.popExt.returned = s.returned := rfl
@[simp] theorem State.popExt_spiReply (s : State) : s.popExt.spiReply = s.spiReply := rfl
@[simp] theorem State.popExt_cfg (s : State) : s.popExt.cfg = s.cfg := rfl

/-! loadSpi -/

@[simp] theorem State.loadSpi_id (s : State) (tx : List Byte) (c : SpiCall) : (s.loadSpi tx c).id = s.id := rfl
@[simp] theorem State.loadSpi_var (s : State) (tx : List Byte) (c : SpiCall) : (s.loadSpi tx c).var = s.var := rfl
@[simp] theorem State.loadSpi_mode (s : State) (tx : List Byte) (c : SpiCall) : (s.loadSpi tx c).mode = s.mode := rfl
@[simp] theorem State.loadSpi_extSel (s : State) (tx : List Byte) (c : SpiCall) : (s.loadSpi tx c).extSel = s.extSel := rfl
@[simp] theorem State.loadSpi_mcuImgSel (s : State) (tx : List Byte) (c : SpiCall) : (s.loadSpi tx c).mcuImgSel = s.mcuImgSel := rfl
@[simp] theorem State.loadSpi_verifyReq (s : State) (tx : List Byte) (c : SpiCall) : (s.loadSpi tx c).verifyReq = s.verifyReq := rfl
@[simp] theorem State.loadSpi_offset (s : State) (tx : List Byte) (c : SpiCall) : (s.loadSpi tx c).offset = s.offset := rfl
@[simp] theorem State.loadSpi_unprotect (s : State) (tx : List Byte) (c : SpiCall) : (s.loadSpi tx c).unprotect = s.unprotect := rfl
@[simp] theorem State.loadSpi_st (s : State) (tx : List Byte) (c : SpiCall) : (s.loadSpi tx c).st = s.st := rfl
@[simp] theorem State.loadSpi_uc (s : State) (tx : List Byte) (c : SpiCall) : (s.loadSpi tx c).uc = s.uc := rfl
@[simp] theorem State.loadSpi_attempt (s : State) (tx : List Byte) (c : SpiCall) : (s.loadSpi tx c).attempt = s.attempt := rfl
@[simp] theorem State.loadSpi_pollCnt (s : State) (tx : List Byte) (c : SpiCall) : (s.loadSpi tx c).pollCnt = s.pollCnt := rfl
@[simp] theorem State.loadSpi_page (s : State) (tx : List Byte) (c : SpiCall) : (s.loadSpi tx c).page = s.page := rfl
@[simp] theorem State.loadSpi_word (s : State) (tx : List Byte) (c : SpiCall) : (s.loadSpi tx c).word = s.word := rfl
@[simp] theorem State.loadSpi_chunk (s : State) (tx : List Byte) (c : SpiCall) : (s.loadSpi tx c).chunk = s.chunk := rfl
@[simp] theorem State.loadSpi_bit (s : State) (tx : List Byte) (c : SpiCall) : (s.loadSpi tx c).bit = s.bit := rfl
@[simp] theorem State.loadSpi_txb (s : State) (tx : List Byte) (c : SpiCall) : (s.loadSpi tx c).txb = tx := rfl
@[simp] theorem State.loadSpi_rxb (s : State) (tx : List Byte) (c : SpiCall) : (s.loadSpi tx c).rxb = [] := rfl
@[simp] theorem State.loadSpi_result (s : State) (tx : List Byte) (c : SpiCall) : (s.loadSpi tx c).result = s.result := rfl
@[simp] theorem State.loadSpi_log (s : State) (tx : List Byte) (c : SpiCall) : (s.loadSpi tx c).log = s.log := rfl
@[simp] theorem State.loadSpi_pc (s : State) (tx : List Byte) (c : SpiCall) : (s.loadSpi tx c).pc = s.pc := rfl
@[simp] theorem State.loadSpi_callers (s : State) (tx : List Byte) (c : SpiCall) : (s.loadSpi tx c).callers = s.callers := rfl
@[simp] theorem State.loadSpi_fsm (s : State) (tx : List Byte) (c : SpiCall) : (s.loadSpi tx c).fsm = { s.fsm with spi := c } := rfl
@[simp] theorem State.loadSpi_xport (s : State) (tx : List Byte) (c : SpiCall) : (s.loadSpi tx c).xport = s.xport := rfl
@[simp] theorem State.loadSpi_device (s : State) (tx : List Byte) (c : SpiCall) : (s.loadSpi tx c).device = s.device := rfl
@[simp] theorem State.loadSpi_bs (s : State) (tx : List Byte) (c : SpiCall) : (s.loadSpi tx c).bs = s.bs := rfl
@[simp] theorem State.loadSpi_mcu (s : State) (tx : List Byte) (c : SpiCall) : (s.loadSpi tx c).mcu = s.mcu := rfl
@[simp] theorem State.loadSpi_hostIn (s : State) (tx : List Byte) (c : SpiCall) : (s.loadSpi tx c).hostIn = s.hostIn := rfl
@[simp] theorem State.loadSpi_extIn (s : State) (tx : List Byte) (c : SpiCall) : (s.loadSpi tx c).extIn = s.extIn := rfl
@[simp] theorem State.loadSpi_returned (s : State) (tx : List Byte) (c : SpiCall) : (s.loadSpi tx c).returned = s.returned := rfl
@[simp] theorem State.loadSpi_spiReply (s : State) (tx : List Byte) (c : SpiCall) : (s.loadSpi tx c).spiReply = s.spiReply := rfl
@[simp] theorem State.loadSpi_cfg (s : State) (tx : List Byte) (c : SpiCall) : (s.loadSpi tx c).cfg = s.cfg := rfl

/-! The transport primitives are updates of the transport alone. -/

@[simp] theorem State.shiftDR_eq (s : State) (out : List Byte) (n : Nat) (t : TapState) : s.shiftDR out n t = s.onXport fun x => x.shiftDR out n t := rfl
@[simp] theorem State.capture_eq (s : State) (out : List Byte) (n : Nat) (t : TapState) : s.capture out n t = s.onXport fun x => x.capture out n t := rfl
@[simp] theorem State.setTap_eq (s : State) (t : TapState) : s.setTap t = s.onXport fun x => x.setState t := rfl
@[simp] theorem State.toggle_eq (s : State) (n : Nat) : s.toggle n = s.onXport fun x => x.toggle n := rfl
@[simp] theorem State.setFreq_eq (s : State) (hz : Nat) : s.setFreq hz = s.onXport fun x => x.setFreq hz := rfl
@[simp] theorem State.flush_eq (s : State) : s.flush = s.onXport fun x => x.flush := rfl
@[simp] theorem State.sleep_eq (s : State) (us : Word) : s.sleep us = s.onXport fun x => x.sleep us := rfl
@[simp] theorem State.captureWord_eq (s : State) : s.captureWord = s.onXport fun x => x.capture readProbe 32 .runTestIdle := rfl

@[simp] theorem State.onXport_onXport (s : State) (f g : Transport → Transport) :
    (s.onXport f).onXport g = s.onXport fun x => g (f x) := rfl

/-! What the captures write. -/

/-- A status read's capture changes the transport and ST (R176). -/
theorem State.readSt_eq (s : State) :
    s.readSt = { s with xport := s.xport.capture readProbe 32 .runTestIdle, st := some s.answerWord } := rfl

/-- The user-code read's capture changes the transport and UC (R278). -/
theorem State.readUc_eq (s : State) :
    s.readUc = { s with xport := s.xport.capture readProbe 32 .runTestIdle, uc := some s.answerWord } := rfl

/-- read_id_code's capture changes the transport and the value returned (R346). -/
theorem State.readReturn_eq (s : State) :
    s.readReturn = { s with xport := s.xport.capture readProbe 32 .runTestIdle,
                            returned := some (.idCode s.answerWord) } := rfl

/-- Construction's capture changes the transport, ID, VAR and EXT_SEL (R391). -/
theorem State.captureId_eq (s : State) :
    s.captureId = { s with xport := s.xport.capture readProbe 32 .runTestIdle, id := s.answerWord,
                           var := resolve s.cfg s.answerWord,
                           extSel := (resolve s.cfg s.answerWord).extFlashForced } := rfl

/-! The small operations. -/

@[simp] theorem State.warn_eq (s : State) (c : Code) : s.warn c = s.logEntry .warning c 0 := rfl

@[simp] theorem State.refuse_eq (s : State) (r : Byte) :
    s.refuse r = s.logEntry .error .refused (r.setWidth 32) := rfl

@[simp] theorem State.consume_command (s : State) : s.consume .command = { s with pc := s.pc.next } := rfl

@[simp] theorem State.consume_host (s : State) : s.consume .host = s.popHost := rfl

@[simp] theorem State.consume_spi (s : State) : s.consume .spi = s.popExt := rfl

@[simp] theorem Pc.next_idle : Pc.next .idle = .idle := rfl

@[simp] theorem Pc.next_at (q : Seq) (n : Nat) : Pc.next (.at q n) = .at q (n + 1) := rfl

end Sys2Proof.Machine
end

