-- ==== Sys2Proof/Laws/Transport.lean ====
section
/-! SUPPORT. What each operation of the transport does to each of its fields, what a capture answers, and that no operation
performs more than went into the queue. -/

namespace Sys2Proof.Machine

@[simp] theorem Transport.issue_freq (x : Transport) (op : TOp) : (x.issue op).freq = x.freq := rfl
@[simp] theorem Transport.issue_tap (x : Transport) (op : TOp) : (x.issue op).tap = x.tap := rfl
@[simp] theorem Transport.issue_ir (x : Transport) (op : TOp) : (x.issue op).ir = x.ir := rfl
@[simp] theorem Transport.issue_issued (x : Transport) (op : TOp) : (x.issue op).issued = x.issued ++ [op] := rfl
@[simp] theorem Transport.issue_performed (x : Transport) (op : TOp) : (x.issue op).performed = x.performed := rfl
@[simp] theorem Transport.issue_replies (x : Transport) (op : TOp) : (x.issue op).replies = x.replies := rfl
@[simp] theorem Transport.issue_draws (x : Transport) (op : TOp) : (x.issue op).draws = x.draws := rfl

@[simp] theorem Transport.drainAll_freq (x : Transport) : x.drainAll.freq = x.freq := rfl
@[simp] theorem Transport.drainAll_tap (x : Transport) : x.drainAll.tap = x.tap := rfl
@[simp] theorem Transport.drainAll_ir (x : Transport) : x.drainAll.ir = x.ir := rfl
@[simp] theorem Transport.drainAll_issued (x : Transport) : x.drainAll.issued = x.issued := rfl
@[simp] theorem Transport.drainAll_performed (x : Transport) : x.drainAll.performed = x.queued.length := rfl
@[simp] theorem Transport.drainAll_replies (x : Transport) : x.drainAll.replies = x.replies := rfl
@[simp] theorem Transport.drainAll_draws (x : Transport) : x.drainAll.draws = x.draws := rfl

@[simp] theorem Transport.shiftIR_freq (x : Transport) (op : Byte) : (x.shiftIR op).freq = x.freq := rfl
@[simp] theorem Transport.shiftIR_tap (x : Transport) (op : Byte) : (x.shiftIR op).tap = .runTestIdle := rfl
@[simp] theorem Transport.shiftIR_ir (x : Transport) (op : Byte) : (x.shiftIR op).ir = op := rfl
@[simp] theorem Transport.shiftIR_issued (x : Transport) (op : Byte) : (x.shiftIR op).issued = x.issued ++ [.ir op] := rfl
@[simp] theorem Transport.shiftIR_replies (x : Transport) (op : Byte) : (x.shiftIR op).replies = x.replies := rfl
@[simp] theorem Transport.shiftIR_draws (x : Transport) (op : Byte) : (x.shiftIR op).draws = x.draws := rfl

@[simp] theorem Transport.toggle_freq (x : Transport) (n : Nat) : (x.toggle n).freq = x.freq := rfl
@[simp] theorem Transport.toggle_tap (x : Transport) (n : Nat) : (x.toggle n).tap = toggledTap x.tap n := rfl
@[simp] theorem Transport.toggle_ir (x : Transport) (n : Nat) : (x.toggle n).ir = x.ir := rfl
@[simp] theorem Transport.toggle_issued (x : Transport) (n : Nat) : (x.toggle n).issued = x.issued ++ [.clk n] := rfl
@[simp] theorem Transport.toggle_replies (x : Transport) (n : Nat) : (x.toggle n).replies = x.replies := rfl
@[simp] theorem Transport.toggle_draws (x : Transport) (n : Nat) : (x.toggle n).draws = x.draws := rfl

@[simp] theorem Transport.setState_freq (x : Transport) (t : TapState) : (x.setState t).freq = x.freq := rfl
@[simp] theorem Transport.setState_tap (x : Transport) (t : TapState) : (x.setState t).tap = t := rfl
@[simp] theorem Transport.setState_ir (x : Transport) (t : TapState) : (x.setState t).ir = x.ir := rfl
@[simp] theorem Transport.setState_issued (x : Transport) (t : TapState) : (x.setState t).issued = x.issued ++ [.state t] := rfl
@[simp] theorem Transport.setState_replies (x : Transport) (t : TapState) : (x.setState t).replies = x.replies := rfl
@[simp] theorem Transport.setState_draws (x : Transport) (t : TapState) : (x.setState t).draws = x.draws := rfl

@[simp] theorem Transport.setFreq_freq (x : Transport) (hz : Nat) : (x.setFreq hz).freq = hz := rfl
@[simp] theorem Transport.setFreq_tap (x : Transport) (hz : Nat) : (x.setFreq hz).tap = x.tap := rfl
@[simp] theorem Transport.setFreq_ir (x : Transport) (hz : Nat) : (x.setFreq hz).ir = x.ir := rfl
@[simp] theorem Transport.setFreq_issued (x : Transport) (hz : Nat) : (x.setFreq hz).issued = x.issued ++ [.freq hz] := rfl
@[simp] theorem Transport.setFreq_replies (x : Transport) (hz : Nat) : (x.setFreq hz).replies = x.replies := rfl
@[simp] theorem Transport.setFreq_draws (x : Transport) (hz : Nat) : (x.setFreq hz).draws = x.draws := rfl

@[simp] theorem Transport.shiftDR_freq (x : Transport) (out : List Byte) (n : Nat) (t : TapState) : (x.shiftDR out n t).freq = x.freq := rfl
@[simp] theorem Transport.shiftDR_tap (x : Transport) (out : List Byte) (n : Nat) (t : TapState) : (x.shiftDR out n t).tap = t := rfl
@[simp] theorem Transport.shiftDR_ir (x : Transport) (out : List Byte) (n : Nat) (t : TapState) : (x.shiftDR out n t).ir = x.ir := rfl
@[simp] theorem Transport.shiftDR_issued (x : Transport) (out : List Byte) (n : Nat) (t : TapState) : (x.shiftDR out n t).issued = x.issued ++ [.dr n out t false] := rfl
@[simp] theorem Transport.shiftDR_replies (x : Transport) (out : List Byte) (n : Nat) (t : TapState) : (x.shiftDR out n t).replies = x.replies := rfl
@[simp] theorem Transport.shiftDR_draws (x : Transport) (out : List Byte) (n : Nat) (t : TapState) : (x.shiftDR out n t).draws = x.draws := rfl

@[simp] theorem Transport.capture_freq (x : Transport) (out : List Byte) (n : Nat) (t : TapState) : (x.capture out n t).freq = x.freq := rfl
@[simp] theorem Transport.capture_tap (x : Transport) (out : List Byte) (n : Nat) (t : TapState) : (x.capture out n t).tap = t := rfl
@[simp] theorem Transport.capture_ir (x : Transport) (out : List Byte) (n : Nat) (t : TapState) : (x.capture out n t).ir = x.ir := rfl
@[simp] theorem Transport.capture_issued (x : Transport) (out : List Byte) (n : Nat) (t : TapState) : (x.capture out n t).issued = x.issued ++ [.dr n out t true] := rfl
@[simp] theorem Transport.capture_replies (x : Transport) (out : List Byte) (n : Nat) (t : TapState) : (x.capture out n t).replies = x.replies.tail := rfl
@[simp] theorem Transport.capture_draws (x : Transport) (out : List Byte) (n : Nat) (t : TapState) : (x.capture out n t).draws = x.draws + 1 := rfl

@[simp] theorem Transport.flush_freq (x : Transport) : x.flush.freq = x.freq := rfl
@[simp] theorem Transport.flush_tap (x : Transport) : x.flush.tap = x.tap := rfl
@[simp] theorem Transport.flush_ir (x : Transport) : x.flush.ir = x.ir := rfl
@[simp] theorem Transport.flush_issued (x : Transport) : x.flush.issued = x.issued ++ [.flush] := rfl
@[simp] theorem Transport.flush_replies (x : Transport) : x.flush.replies = x.replies := rfl
@[simp] theorem Transport.flush_draws (x : Transport) : x.flush.draws = x.draws := rfl

@[simp] theorem Transport.sleep_freq (x : Transport) (us : Word) : (x.sleep us).freq = x.freq := rfl
@[simp] theorem Transport.sleep_tap (x : Transport) (us : Word) : (x.sleep us).tap = x.tap := rfl
@[simp] theorem Transport.sleep_ir (x : Transport) (us : Word) : (x.sleep us).ir = x.ir := rfl
@[simp] theorem Transport.sleep_issued (x : Transport) (us : Word) : (x.sleep us).issued = x.issued ++ [.sleep us] := rfl
@[simp] theorem Transport.sleep_replies (x : Transport) (us : Word) : (x.sleep us).replies = x.replies := rfl
@[simp] theorem Transport.sleep_draws (x : Transport) (us : Word) : (x.sleep us).draws = x.draws := rfl

@[simp] theorem toggledTap_runTestIdle (n : Nat) : toggledTap .runTestIdle n = .runTestIdle := rfl

@[simp] theorem toggledTap_shiftDR (n : Nat) : toggledTap .shiftDR n = .shiftDR := rfl

@[simp] theorem Transport.sendCommand_freq (x : Transport) (op : Byte) : (x.sendCommand op).freq = x.freq := rfl
@[simp] theorem Transport.sendCommand_tap (x : Transport) (op : Byte) : (x.sendCommand op).tap = .runTestIdle := rfl
@[simp] theorem Transport.sendCommand_ir (x : Transport) (op : Byte) : (x.sendCommand op).ir = op := rfl
@[simp] theorem Transport.sendCommand_replies (x : Transport) (op : Byte) : (x.sendCommand op).replies = x.replies := rfl
@[simp] theorem Transport.sendCommand_draws (x : Transport) (op : Byte) : (x.sendCommand op).draws = x.draws := rfl

/-- A command issues its IR shift and the latch clocks, in this order (R172). -/
@[simp] theorem Transport.sendCommand_issued (x : Transport) (op : Byte) :
    (x.sendCommand op).issued = x.issued ++ [.ir op, .clk latchClocks] := by
  simp [Transport.sendCommand]

/-- An answer depends on the script and the count of captures alone. -/
theorem Transport.answer_congr {x y : Transport} (h : x.replies = y.replies) (h' : x.draws = y.draws) (n : Nat) :
    x.answer n = y.answer n := by
  simp [Transport.answer, h, h']

@[simp] theorem Transport.sendCommand_answer (x : Transport) (op : Byte) (n : Nat) :
    (x.sendCommand op).answer n = x.answer n := rfl

@[simp] theorem Transport.setState_answer (x : Transport) (t : TapState) (n : Nat) :
    (x.setState t).answer n = x.answer n := rfl

@[simp] theorem Transport.shiftDR_answer (x : Transport) (out : List Byte) (k : Nat) (t : TapState) (n : Nat) :
    (x.shiftDR out k t).answer n = x.answer n := rfl

@[simp] theorem Transport.answer_length (x : Transport) (n : Nat) : (x.answer n).length = ceilDiv n 8 := by
  simp [Transport.answer]

/-- A capture of whole bytes answers what the script gives, when the script gives that many bytes. -/
theorem Transport.answer_scripted {x : Transport} {r : List Byte} {rs : List (List Byte)} {k : Nat}
    (h : x.replies = r :: rs) (hk : r.length = k) : x.answer (8 * k) = r := by
  apply List.ext_getElem
  · simp [ceilDiv]; omega
  · intro i h1 h2
    have h1' : i < k := by simp [ceilDiv] at h1; omega
    have : 8 * i + 8 ≤ 8 * k := by omega
    simp [Transport.answer, h, maskByte, this, List.getElem?_eq_getElem h2]

/-! The transport's own step (R10, R53). -/

@[simp] theorem Transport.perform_freq (x : Transport) : x.perform.freq = x.freq := rfl
@[simp] theorem Transport.perform_tap (x : Transport) : x.perform.tap = x.tap := rfl
@[simp] theorem Transport.perform_ir (x : Transport) : x.perform.ir = x.ir := rfl
@[simp] theorem Transport.perform_issued (x : Transport) : x.perform.issued = x.issued := rfl
@[simp] theorem Transport.perform_performed (x : Transport) : x.perform.performed = x.performed + 1 := rfl
@[simp] theorem Transport.perform_replies (x : Transport) : x.perform.replies = x.replies := rfl
@[simp] theorem Transport.perform_draws (x : Transport) : x.perform.draws = x.draws := rfl

/-- The transport moves only when an operation is left to perform. -/
theorem Transport.lt_of_moves {x : Transport} (h : x.moves = true) : x.performed < x.queued.length := by
  simp only [Transport.moves, Bool.and_eq_true, decide_eq_true_eq] at h
  exact h.1

/-- With everything performed the transport does not move. -/
theorem Transport.moves_of_drained {x : Transport} (h : x.queued.length ≤ x.performed) : x.moves = false := by
  simp [Transport.moves, Nat.not_lt.mpr h]

/-! The queue: what goes into it, and that nothing else is performed. -/

/-- An operation but a Sleep goes to the end of the queue. -/
@[simp] theorem Transport.issue_queued (x : Transport) (op : TOp) :
    (x.issue op).queued = x.queued ++ if op.isQueued then [op] else [] := by
  cases op <;> simp [Transport.queued, Transport.issue, TOp.isQueued]

@[simp] theorem Transport.drainAll_queued (x : Transport) : x.drainAll.queued = x.queued := rfl
@[simp] theorem Transport.perform_queued (x : Transport) : x.perform.queued = x.queued := rfl

/-- A Sleep leaves the queue as it is: it is no entry of it, and performs none (R53, R171). -/
@[simp] theorem Transport.sleep_queue (x : Transport) (us : Word) : (x.sleep us).queue = x.queue := by
  simp [Transport.sleep, Transport.queue, TOp.isQueued]

/-- No Sleep stands in the queue. -/
theorem Transport.sleep_not_mem_queue (x : Transport) (us : Word) : TOp.sleep us ∉ x.queue := by
  intro h
  have h' := List.mem_of_mem_drop h
  simp [Transport.queued, TOp.isQueued] at h'

/-- What is performed went into the queue. -/
def Transport.performedOk (x : Transport) : Prop := x.performed ≤ x.queued.length

theorem Transport.issue_performedOk {x : Transport} (h : x.performedOk) (op : TOp) : (x.issue op).performedOk := by
  simp only [Transport.performedOk, Transport.issue_queued, Transport.issue_performed, List.length_append] at *
  omega

theorem Transport.perform_performedOk {x : Transport} (h : x.moves = true) : x.perform.performedOk :=
  Transport.lt_of_moves h

/-- A capture is a barrier: everything issued is performed (R53). -/
@[simp] theorem Transport.capture_performed (x : Transport) (out : List Byte) (n : Nat) (t : TapState) :
    (x.capture out n t).performed = x.queued.length + 1 := by
  simp [Transport.capture, TOp.isQueued]

@[simp] theorem Transport.capture_queued (x : Transport) (out : List Byte) (n : Nat) (t : TapState) :
    (x.capture out n t).queued = x.queued ++ [.dr n out t true] := x.issue_queued (.dr n out t true)

@[simp] theorem Transport.flush_queued (x : Transport) : x.flush.queued = x.queued ++ [.flush] := x.issue_queued .flush

/-- Flush is a barrier (R90). -/
@[simp] theorem Transport.flush_performed (x : Transport) : x.flush.performed = x.queued.length + 1 := by
  simp [Transport.flush, TOp.isQueued]

theorem Transport.capture_performedOk (x : Transport) (out : List Byte) (n : Nat) (t : TapState) :
    (x.capture out n t).performedOk := by
  simp [Transport.performedOk]

theorem Transport.flush_performedOk (x : Transport) : x.flush.performedOk := by
  simp [Transport.performedOk]

end Sys2Proof.Machine
end

