-- ==== Sys2Proof/Laws/Returns.lean ====
section
/-! SUPPORT. The returns of sequences: all that a return can do, and the fields it leaves. -/

namespace Sys2Proof.Machine

/-! Returns (R20, R365, R370). -/

/-- An outcome that is not Fatal ends no caller. -/
theorem unwind_of_not_fatal {o : SeqOutcome} (h : o.isFatal = false) (fs : List Frame) : unwind o fs = fs := by
  cases fs with
  | nil => rfl
  | cons f fs => simp [unwind, h]

/-- What is left of the callers is the end of them. -/
theorem unwind_suffix (o : SeqOutcome) : ∀ fs : List Frame, unwind o fs <:+ fs
  | [] => List.suffix_refl _
  | f :: fs => by
    simp only [unwind]
    split
    · exact (unwind_suffix o fs).trans (List.suffix_cons f fs)
    · exact List.suffix_refl _

/-- A Fatal outcome that every caller passes up ends them all. -/
theorem unwind_all {o : SeqOutcome} (h : o.isFatal = true) :
    ∀ {fs : List Frame}, (∀ f ∈ fs, f.passFatal = true) → unwind o fs = []
  | [], _ => rfl
  | f :: fs, hf => by
    simp only [unwind, h, hf f (by simp), Bool.and_self, if_true]
    exact unwind_all h fun g hg => hf g (by simp [hg])

/-- A Fatal outcome ends the callers up to the first that binds it. -/
theorem unwind_stop {o : SeqOutcome} (h : o.isFatal = true) {g : Frame} (hg : g.passFatal = false) (fs : List Frame) :
    ∀ {pre : List Frame}, (∀ f ∈ pre, f.passFatal = true) → unwind o (pre ++ g :: fs) = g :: fs
  | [], _ => by simp [unwind, hg]
  | f :: pre, hf => by
    simp only [List.cons_append, unwind, h, hf f (by simp), Bool.and_self, if_true]
    exact unwind_stop h hg fs fun f' hf' => hf f' (by simp [hf'])

/-- All that a return can do: it ends the host operation, or resumes one caller with the outcome bound. -/
theorem State.returnOutcome_cases (s : State) (o : SeqOutcome) :
    (unwind o s.callers = [] ∧ s.returnOutcome o = s.finish o) ∨
    ∃ f fs, unwind o s.callers = f :: fs ∧
      s.returnOutcome o =
        { s with pc := .at f.seq f.step, callers := fs, fsm := { s.fsm with ret := o } } := by
  unfold State.returnOutcome
  split
  · rename_i h; exact .inl ⟨h, rfl⟩
  · rename_i f fs h; exact .inr ⟨f, fs, h, rfl⟩

/-- A return with no caller left ends the host operation. -/
theorem State.returnOutcome_finish {s : State} {o : SeqOutcome} (h : unwind o s.callers = []) :
    s.returnOutcome o = s.finish o := by
  simp [State.returnOutcome, h]

/-- A return with a caller left resumes it. -/
theorem State.returnOutcome_resume {s : State} {o : SeqOutcome} {f : Frame} {fs : List Frame}
    (h : unwind o s.callers = f :: fs) :
    s.returnOutcome o = { s with pc := .at f.seq f.step, callers := fs, fsm := { s.fsm with ret := o } } := by
  simp [State.returnOutcome, h]

/-- A return leaves the step pointer IDLE without callers, or at a caller with the callers behind it. -/
theorem State.returnOutcome_pc (s : State) (o : SeqOutcome) :
    ((s.returnOutcome o).pc = .idle ∧ (s.returnOutcome o).callers = []) ∨
    ∃ f fs, f :: fs <:+ s.callers ∧ (s.returnOutcome o).pc = .at f.seq f.step ∧ (s.returnOutcome o).callers = fs := by
  rcases s.returnOutcome_cases o with ⟨_, h⟩ | ⟨f, fs, hu, h⟩
  · exact .inl (by simp [h])
  · exact .inr ⟨f, fs, hu ▸ unwind_suffix o s.callers, by simp [h]⟩

@[simp] theorem State.returnOutcome_id (s : State) (o : SeqOutcome) : (s.returnOutcome o).id = s.id := by
  rcases s.returnOutcome_cases o with ⟨_, h⟩ | ⟨_, _, _, h⟩ <;> simp [h]
@[simp] theorem State.returnOutcome_var (s : State) (o : SeqOutcome) : (s.returnOutcome o).var = s.var := by
  rcases s.returnOutcome_cases o with ⟨_, h⟩ | ⟨_, _, _, h⟩ <;> simp [h]
@[simp] theorem State.returnOutcome_mode (s : State) (o : SeqOutcome) : (s.returnOutcome o).mode = s.mode := by
  rcases s.returnOutcome_cases o with ⟨_, h⟩ | ⟨_, _, _, h⟩ <;> simp [h]
@[simp] theorem State.returnOutcome_extSel (s : State) (o : SeqOutcome) : (s.returnOutcome o).extSel = s.extSel := by
  rcases s.returnOutcome_cases o with ⟨_, h⟩ | ⟨_, _, _, h⟩ <;> simp [h]
@[simp] theorem State.returnOutcome_mcuImgSel (s : State) (o : SeqOutcome) : (s.returnOutcome o).mcuImgSel = s.mcuImgSel := by
  rcases s.returnOutcome_cases o with ⟨_, h⟩ | ⟨_, _, _, h⟩ <;> simp [h]
@[simp] theorem State.returnOutcome_verifyReq (s : State) (o : SeqOutcome) : (s.returnOutcome o).verifyReq = s.verifyReq := by
  rcases s.returnOutcome_cases o with ⟨_, h⟩ | ⟨_, _, _, h⟩ <;> simp [h]
@[simp] theorem State.returnOutcome_offset (s : State) (o : SeqOutcome) : (s.returnOutcome o).offset = s.offset := by
  rcases s.returnOutcome_cases o with ⟨_, h⟩ | ⟨_, _, _, h⟩ <;> simp [h]
@[simp] theorem State.returnOutcome_unprotect (s : State) (o : SeqOutcome) : (s.returnOutcome o).unprotect = s.unprotect := by
  rcases s.returnOutcome_cases o with ⟨_, h⟩ | ⟨_, _, _, h⟩ <;> simp [h]
@[simp] theorem State.returnOutcome_st (s : State) (o : SeqOutcome) : (s.returnOutcome o).st = s.st := by
  rcases s.returnOutcome_cases o with ⟨_, h⟩ | ⟨_, _, _, h⟩ <;> simp [h]
@[simp] theorem State.returnOutcome_uc (s : State) (o : SeqOutcome) : (s.returnOutcome o).uc = s.uc := by
  rcases s.returnOutcome_cases o with ⟨_, h⟩ | ⟨_, _, _, h⟩ <;> simp [h]
@[simp] theorem State.returnOutcome_attempt (s : State) (o : SeqOutcome) : (s.returnOutcome o).attempt = s.attempt := by
  rcases s.returnOutcome_cases o with ⟨_, h⟩ | ⟨_, _, _, h⟩ <;> simp [h]
@[simp] theorem State.returnOutcome_pollCnt (s : State) (o : SeqOutcome) : (s.returnOutcome o).pollCnt = s.pollCnt := by
  rcases s.returnOutcome_cases o with ⟨_, h⟩ | ⟨_, _, _, h⟩ <;> simp [h]
@[simp] theorem State.returnOutcome_page (s : State) (o : SeqOutcome) : (s.returnOutcome o).page = s.page := by
  rcases s.returnOutcome_cases o with ⟨_, h⟩ | ⟨_, _, _, h⟩ <;> simp [h]
@[simp] theorem State.returnOutcome_word (s : State) (o : SeqOutcome) : (s.returnOutcome o).word = s.word := by
  rcases s.returnOutcome_cases o with ⟨_, h⟩ | ⟨_, _, _, h⟩ <;> simp [h]
@[simp] theorem State.returnOutcome_chunk (s : State) (o : SeqOutcome) : (s.returnOutcome o).chunk = s.chunk := by
  rcases s.returnOutcome_cases o with ⟨_, h⟩ | ⟨_, _, _, h⟩ <;> simp [h]
@[simp] theorem State.returnOutcome_bit (s : State) (o : SeqOutcome) : (s.returnOutcome o).bit = s.bit := by
  rcases s.returnOutcome_cases o with ⟨_, h⟩ | ⟨_, _, _, h⟩ <;> simp [h]
@[simp] theorem State.returnOutcome_txb (s : State) (o : SeqOutcome) : (s.returnOutcome o).txb = s.txb := by
  rcases s.returnOutcome_cases o with ⟨_, h⟩ | ⟨_, _, _, h⟩ <;> simp [h]
@[simp] theorem State.returnOutcome_rxb (s : State) (o : SeqOutcome) : (s.returnOutcome o).rxb = s.rxb := by
  rcases s.returnOutcome_cases o with ⟨_, h⟩ | ⟨_, _, _, h⟩ <;> simp [h]
@[simp] theorem State.returnOutcome_log (s : State) (o : SeqOutcome) : (s.returnOutcome o).log = s.log := by
  rcases s.returnOutcome_cases o with ⟨_, h⟩ | ⟨_, _, _, h⟩ <;> simp [h]
@[simp] theorem State.returnOutcome_xport (s : State) (o : SeqOutcome) : (s.returnOutcome o).xport = s.xport := by
  rcases s.returnOutcome_cases o with ⟨_, h⟩ | ⟨_, _, _, h⟩ <;> simp [h]
@[simp] theorem State.returnOutcome_device (s : State) (o : SeqOutcome) : (s.returnOutcome o).device = s.device := by
  rcases s.returnOutcome_cases o with ⟨_, h⟩ | ⟨_, _, _, h⟩ <;> simp [h]
@[simp] theorem State.returnOutcome_bs (s : State) (o : SeqOutcome) : (s.returnOutcome o).bs = s.bs := by
  rcases s.returnOutcome_cases o with ⟨_, h⟩ | ⟨_, _, _, h⟩ <;> simp [h]
@[simp] theorem State.returnOutcome_mcu (s : State) (o : SeqOutcome) : (s.returnOutcome o).mcu = s.mcu := by
  rcases s.returnOutcome_cases o with ⟨_, h⟩ | ⟨_, _, _, h⟩ <;> simp [h]
@[simp] theorem State.returnOutcome_hostIn (s : State) (o : SeqOutcome) : (s.returnOutcome o).hostIn = s.hostIn := by
  rcases s.returnOutcome_cases o with ⟨_, h⟩ | ⟨_, _, _, h⟩ <;> simp [h]
@[simp] theorem State.returnOutcome_extIn (s : State) (o : SeqOutcome) : (s.returnOutcome o).extIn = s.extIn := by
  rcases s.returnOutcome_cases o with ⟨_, h⟩ | ⟨_, _, _, h⟩ <;> simp [h]
@[simp] theorem State.returnOutcome_returned (s : State) (o : SeqOutcome) : (s.returnOutcome o).returned = s.returned := by
  rcases s.returnOutcome_cases o with ⟨_, h⟩ | ⟨_, _, _, h⟩ <;> simp [h]
@[simp] theorem State.returnOutcome_spiReply (s : State) (o : SeqOutcome) : (s.returnOutcome o).spiReply = s.spiReply := by
  rcases s.returnOutcome_cases o with ⟨_, h⟩ | ⟨_, _, _, h⟩ <;> simp [h]
@[simp] theorem State.returnOutcome_cfg (s : State) (o : SeqOutcome) : (s.returnOutcome o).cfg = s.cfg := by
  rcases s.returnOutcome_cases o with ⟨_, h⟩ | ⟨_, _, _, h⟩ <;> simp [h]

end Sys2Proof.Machine
end

