-- ==== Sys2Proof/Laws/Settle.lean ====
section
/-! SUPPORT. How the step pointer comes to rest: all that a move can do, that the moves between two transport operations are
bounded, so that `settled` is one move followed by `settled`, or no move at all, and what no move changes. -/

namespace Sys2Proof.Machine

/-! All that a move can do. -/

/-- The entries a move at entry `n` of sequence `q` can lead to, a return aside. -/
def Ctl.targets (q : Seq) (n : Nat) : Ctl → List (Seq × Nat)
  | .call c _ => [(c, 0)]
  | .callEncoding => [(.transferA, 0), (.transferB, 0)]
  | .jump k | .waitNext k => [(q, k)]
  | .branch _ k | .pollNext _ _ _ k | .chunkNext k | .attemptNext k | .burstNext k | .pageNext k | .wordNext k
  | .bitNext k => [(q, k), (q, n + 1)]
  | .retOk | .retAcc | .retRet | .retDone _ _ | .leave | .checksumEnd | .extReturn | .replyBytes => []
  | _ => [(q, n + 1)]

/-- Whether a move can return from its sequence. -/
def Ctl.returns : Ctl → Bool
  | .retOk | .retAcc | .retRet | .retDone _ _ | .leave | .checksumEnd | .extReturn | .replyBytes | .pollNext _ _ _ _
  | .requireProgrammable | .waitNext _ => true
  | _ => false

/-- Whether a move calls a sequence. -/
def Ctl.calls : Ctl → Bool
  | .call _ _ | .callEncoding => true
  | _ => false

/-- All that a move at entry `n` of `q` does to the step pointer and the callers: it stays in its sequence, calls one of
another, or returns to a caller or to IDLE. -/
inductive MoveTo (s t : State) (q : Seq) (n : Nat) (c : Ctl) : Prop where
  | stay (k : Nat) (hc : c.calls = false) (hk : (q, k) ∈ c.targets q n) (hpc : t.pc = .at q k)
      (hcs : t.callers = s.callers)
  | call (q' : Seq) (pass : Bool) (hc : c.calls = true) (hq : (q', 0) ∈ c.targets q n) (hpc : t.pc = .at q' 0)
      (hcs : t.callers = ⟨q, n + 1, pass⟩ :: s.callers) (hpass : c = .call q' pass ∨ c = .callEncoding ∧ pass = true)
  | returnTo (f : Frame) (fs : List Frame) (hr : c.returns = true) (hf : f :: fs <:+ s.callers)
      (hpc : t.pc = .at f.seq f.step) (hcs : t.callers = fs)
  | returnIdle (hr : c.returns = true) (hpc : t.pc = .idle) (hcs : t.callers = [])

theorem MoveTo.ofReturn {s u : State} {q : Seq} {n : Nat} {c : Ctl} {o : SeqOutcome} (hr : c.returns = true)
    (hu : u.callers = s.callers) : MoveTo s (u.returnOutcome o) q n c := by
  rcases u.returnOutcome_pc o with ⟨h1, h2⟩ | ⟨f, fs, h1, h2, h3⟩
  · exact .returnIdle hr h1 h2
  · exact .returnTo f fs hr (hu ▸ h1) h2 h3

theorem State.move_to (s : State) (q : Seq) (n : Nat) (c : Ctl) : MoveTo s (s.move q n c) q n c := by
  cases c with
  | call p pass => exact .call p pass rfl (by simp [Ctl.targets]) rfl rfl (.inl rfl)
  | callEncoding =>
    simp only [State.move]
    split
    · exact .call .transferA true rfl (by simp [Ctl.targets]) rfl rfl (.inr ⟨rfl, rfl⟩)
    · exact .call .transferB true rfl (by simp [Ctl.targets]) rfl rfl (.inr ⟨rfl, rfl⟩)
  | jump k => exact .stay k rfl (by simp [Ctl.targets]) rfl rfl
  | branch b k =>
    refine .stay (if s.holds b then k else n + 1) rfl ?_ rfl rfl
    split <;> simp [Ctl.targets]
  | retOk => exact .ofReturn rfl rfl
  | retAcc => exact .ofReturn rfl rfl
  | retRet => exact .ofReturn rfl rfl
  | retDone want code =>
    simp only [State.move, State.returnByDone]
    split
    · exact .ofReturn rfl rfl
    · exact .ofReturn rfl rfl
  | leave => exact .returnIdle rfl rfl rfl
  | pollNext mask value code k =>
    simp only [State.move, State.pollNext]
    split
    · exact .stay (n + 1) rfl (by simp [Ctl.targets]) rfl rfl
    · split
      · exact .stay k rfl (by simp [Ctl.targets]) rfl rfl
      · exact .ofReturn rfl rfl
  | requireProgrammable =>
    simp only [State.move, State.requireProgrammable]
    split
    · exact .stay (n + 1) rfl (by simp [Ctl.targets]) rfl rfl
    · exact .ofReturn rfl rfl
  | chunkNext k | attemptNext k | burstNext k | pageNext k | wordNext k | bitNext k =>
    simp only [State.move]
    split
    · exact .stay k rfl (by simp [Ctl.targets]) rfl rfl
    · exact .stay (n + 1) rfl (by simp [Ctl.targets]) rfl rfl
  | checksumEnd =>
    simp only [State.move, State.checksumEnd]
    split
    · exact .ofReturn rfl rfl
    · exact .ofReturn rfl rfl
  | warnVerify =>
    refine .stay (n + 1) rfl (by simp [Ctl.targets]) rfl ?_
    cases h : s.verifyReq <;> simp [State.move, h]
  | extReturn =>
    simp only [State.move, State.externalEnd]
    split
    · exact .ofReturn rfl rfl
    · split <;> exact .ofReturn rfl rfl
  | replyBytes => exact .ofReturn rfl rfl
  | waitNext k =>
    have hc : s.countWait.callers = s.callers := by
      unfold State.countWait
      simp only []
      split <;> rfl
    simp only [State.move, State.waitNext]
    split
    · exact .ofReturn rfl hc
    · split
      · exact .stay k rfl (by simp [Ctl.targets]) rfl hc
      · exact .ofReturn rfl hc
  | _ => exact .stay (n + 1) rfl (by simp [Ctl.targets]) rfl rfl

/-- All that `moved?` can answer: a move of the entry at the step pointer, or a clocked wait of count 0 passed over. -/
theorem State.moved?_cases {s t : State} (h : s.moved? = some t) :
    ∃ q n, s.pc = .at q n ∧
      ((∃ c, microAt q n = some (.ctl c) ∧ t = s.move q n c) ∨
       (∃ d, microAt q n = some (.op (.clkFor d)) ∧ clockCount s.xport.freq (s.delayUs d) = 0 ∧ t = s.goto q (n + 1))) := by
  unfold State.moved? at h
  split at h
  · cases h
  · rename_i q n hpc
    refine ⟨q, n, hpc, ?_⟩
    split at h
    · rename_i c hm
      exact .inl ⟨c, hm, (Option.some.inj h).symm⟩
    · rename_i d hm
      split at h
      · rename_i h0
        exact .inr ⟨d, hm, h0, (Option.some.inj h).symm⟩
      · cases h
    · cases h

/-! The moves are bounded. -/

/-- The moves that can follow one another from an entry, up to a transport operation or a return: at most so many. -/
def movesFrom : Nat → Seq → Nat → Nat
  | 0, _, _ => 0
  | k + 1, q, n =>
    match microAt q n with
    | some (.ctl c) => 1 + ((c.targets q n).map fun t => movesFrom k t.1 t.2).foldr max 0
    | some (.op (.clkFor _)) => 1 + movesFrom k q (n + 1)
    | _ => 0

/-- Whether the moves from an entry can reach a return of its own sequence before a transport operation. -/
def mayReturn : Nat → Seq → Nat → Bool
  | 0, _, _ => false
  | k + 1, q, n =>
    match microAt q n with
    | some (.ctl c) => c.returns || (!c.calls && (c.targets q n).any fun t => mayReturn k t.1 t.2)
    | some (.op (.clkFor _)) => mayReturn k q (n + 1)
    | _ => false

/-- Twelve levels are enough for both counts, no entry has more than nine moves behind it, and no sequence returns before
its first transport operation. -/
theorem rom_bounds (q : Seq) :
    ((List.range 25).all fun n => movesFrom 13 q n == movesFrom 12 q n && mayReturn 13 q n == mayReturn 12 q n
      && decide (movesFrom 12 q n ≤ 9)) = true ∧ mayReturn 12 q 0 = false ∧ (rom q).length ≤ 24 := by
  cases q with
  | single b => exact ⟨by rfl, by rfl, by simp [rom]⟩
  | _ => exact ⟨by decide +kernel, by decide +kernel, by simp [rom]⟩

theorem microAt_large {q : Seq} {n : Nat} (h : 24 ≤ n) : microAt q n = none := by
  have := (rom_bounds q).2.2
  exact List.getElem?_eq_none (by omega)

theorem movesFrom_stable (q : Seq) (n : Nat) : movesFrom 13 q n = movesFrom 12 q n := by
  by_cases h : n < 25
  · have := List.all_eq_true.mp (rom_bounds q).1 n (List.mem_range.mpr h)
    simp only [Bool.and_eq_true, beq_iff_eq, decide_eq_true_eq] at this
    exact this.1.1
  · simp [movesFrom, microAt_large (q := q) (n := n) (by omega)]

theorem mayReturn_stable (q : Seq) (n : Nat) : mayReturn 13 q n = mayReturn 12 q n := by
  by_cases h : n < 25
  · have := List.all_eq_true.mp (rom_bounds q).1 n (List.mem_range.mpr h)
    simp only [Bool.and_eq_true, beq_iff_eq, decide_eq_true_eq] at this
    exact this.1.2
  · simp [mayReturn, microAt_large (q := q) (n := n) (by omega)]

theorem movesFrom_le (q : Seq) (n : Nat) : movesFrom 12 q n ≤ 9 := by
  by_cases h : n < 25
  · have := List.all_eq_true.mp (rom_bounds q).1 n (List.mem_range.mpr h)
    simp only [Bool.and_eq_true, beq_iff_eq, decide_eq_true_eq] at this
    exact this.2
  · simp [movesFrom, microAt_large (q := q) (n := n) (by omega)]

/-- The moves still to make: those from the step pointer, and, where they can return, those of the callers. -/
def State.moveRank (s : State) : Nat :=
  match s.pc with
  | .idle => 0
  | .at q n => movesFrom 12 q n +
      if mayReturn 12 q n then (s.callers.map fun f => movesFrom 12 f.seq f.step + 1).sum else 0

theorem sum_suffix_le {fs gs : List Frame} (h : fs <:+ gs) (m : Frame → Nat) : (fs.map m).sum ≤ (gs.map m).sum := by
  obtain ⟨pre, rfl⟩ := h
  simp

theorem le_foldr_max {l : List Nat} {a : Nat} (h : a ∈ l) : a ≤ l.foldr max 0 := by
  induction l with
  | nil => cases h
  | cons b l ih =>
    rcases List.mem_cons.mp h with rfl | h
    · exact Nat.le_max_left _ _
    · exact (ih h).trans (Nat.le_max_right _ _)

theorem movesFrom_target {q q' : Seq} {n n' : Nat} {c : Ctl} (hm : microAt q n = some (.ctl c))
    (ht : (q', n') ∈ c.targets q n) : movesFrom 12 q' n' < movesFrom 12 q n := by
  have h1 := le_foldr_max (List.mem_map.mpr ⟨(q', n'), ht, rfl⟩ :
    movesFrom 12 q' n' ∈ (c.targets q n).map fun t => movesFrom 12 t.1 t.2)
  have h2 : movesFrom 13 q n = 1 + ((c.targets q n).map fun t => movesFrom 12 t.1 t.2).foldr max 0 := by
    rw [movesFrom, hm]
  have h3 := movesFrom_stable q n
  omega

theorem mayReturn_target {q q' : Seq} {n n' : Nat} {c : Ctl} (hm : microAt q n = some (.ctl c))
    (hc : c.calls = false) (ht : (q', n') ∈ c.targets q n) (h : mayReturn 12 q' n' = true) :
    mayReturn 12 q n = true := by
  rw [← mayReturn_stable q n, mayReturn, hm]
  simp only [hc, Bool.not_false, Bool.true_and, Bool.or_eq_true, List.any_eq_true]
  exact .inr ⟨(q', n'), ht, h⟩

/-- A move leaves fewer moves to make. -/
theorem State.moveRank_lt {s t : State} (h : s.moved? = some t) : t.moveRank < s.moveRank := by
  obtain ⟨q, n, hpc, ⟨c, hm, rfl⟩ | ⟨d, hm, _, rfl⟩⟩ := s.moved?_cases h
  · have hs : s.moveRank = movesFrom 12 q n +
        if mayReturn 12 q n then (s.callers.map fun f => movesFrom 12 f.seq f.step + 1).sum else 0 := by
      simp only [State.moveRank, hpc]
    have hret : c.returns = true → mayReturn 12 q n = true := by
      intro hr
      rw [← mayReturn_stable q n, mayReturn, hm]
      simp only [hr, Bool.true_or]
    have hpos : 0 < movesFrom 12 q n := by
      rw [← movesFrom_stable q n, movesFrom, hm]
      simp only []
      omega
    rw [hs]
    rcases s.move_to q n c with ⟨k, hc, hk, hp, hcs⟩ | ⟨q', pass, hc, hq, hp, hcs, _⟩ | ⟨f, fs, hr, hf, hp, hcs⟩ |
      ⟨hr, hp, _⟩
    · have h1 := movesFrom_target hm hk
      simp only [State.moveRank, hp, hcs]
      by_cases hk' : mayReturn 12 q k = true
      · simp only [hk', mayReturn_target hm hc hk hk', if_true]; omega
      · simp only [hk']
        simp only [Bool.false_eq_true, if_false]
        omega
    · have h1 := movesFrom_target hm hq
      simp only [State.moveRank, hp, (rom_bounds q').2.1, Bool.false_eq_true, if_false]
      omega
    · have h1 := sum_suffix_le hf fun f => movesFrom 12 f.seq f.step + 1
      simp only [List.map_cons, List.sum_cons] at h1
      simp only [State.moveRank, hp, hcs, hret hr, if_true]
      split <;> omega
    · simp only [State.moveRank, hp]
      omega
  · have h1 : movesFrom 12 q n = 1 + movesFrom 12 q (n + 1) := by
      rw [← movesFrom_stable q n, movesFrom, hm]
    have h2 : mayReturn 12 q n = mayReturn 12 q (n + 1) := by
      rw [← mayReturn_stable q n, mayReturn, hm]
    simp only [State.moveRank, hpc, State.goto_pc, State.goto_callers, h1, h2]
    omega

theorem State.moveRank_le (s : State) : s.moveRank ≤ s.moveBound := by
  have hsum : ∀ l : List Frame, (l.map fun f => movesFrom 12 f.seq f.step + 1).sum ≤ 10 * l.length := by
    intro l
    induction l with
    | nil => simp
    | cons f l ih =>
      have := movesFrom_le f.seq f.step
      simp only [List.map_cons, List.sum_cons, List.length_cons]
      omega
  unfold State.moveRank State.moveBound
  split
  · exact Nat.zero_le _
  · rename_i q n _
    have h1 := movesFrom_le q n
    have h2 := hsum s.callers
    split <;> omega

/-! `settled`. -/

theorem State.settleIn_of_rest {s : State} (h : s.moved? = none) (k : Nat) : State.settleIn k s = s := by
  cases k <;> simp [State.settleIn, h]

/-- Enough moves are as good as more. -/
theorem State.settleIn_enough : ∀ (k j : Nat) (s : State), s.moveRank ≤ k → s.moveRank ≤ j →
    State.settleIn k s = State.settleIn j s
  | k, j, s, hk, hj => by
    rcases h : s.moved? with _ | t
    · rw [settleIn_of_rest h, settleIn_of_rest h]
    · have hlt := State.moveRank_lt h
      obtain ⟨k, rfl⟩ : ∃ k', k = k' + 1 := ⟨k - 1, by omega⟩
      obtain ⟨j, rfl⟩ : ∃ j', j = j' + 1 := ⟨j - 1, by omega⟩
      simp only [State.settleIn, h]
      exact State.settleIn_enough k j t (by omega) (by omega)

/-- At rest, `settled` does nothing. -/
theorem State.settled_of_rest {s : State} (h : s.moved? = none) : s.settled = s := settleIn_of_rest h _

/-- Where there is a move, `settled` is that move and `settled` behind it. -/
theorem State.settled_of_move {s t : State} (h : s.moved? = some t) : s.settled = t.settled := by
  have hlt := State.moveRank_lt h
  have hle := s.moveRank_le
  obtain ⟨k, hk⟩ : ∃ k, s.moveBound = k + 1 := ⟨s.moveBound - 1, by omega⟩
  unfold State.settled
  rw [hk]
  simp only [State.settleIn, h]
  exact State.settleIn_enough _ _ t (by omega) t.moveRank_le

/-- At an entry that issues nothing, `settled` makes its move. -/
theorem State.settled_ctl {s : State} {q : Seq} {n : Nat} {c : Ctl} (hpc : s.pc = .at q n)
    (hm : microAt q n = some (.ctl c)) : s.settled = (s.move q n c).settled :=
  State.settled_of_move (by simp [State.moved?, hpc, hm])

/-- What every move keeps, `settled` keeps. -/
theorem State.settled_induct (P : State → Prop) (hmove : ∀ s t, P s → s.moved? = some t → P t) {s : State} (h : P s) :
    P s.settled := by
  have : ∀ (k : Nat) (s : State), P s → P (State.settleIn k s) := by
    intro k
    induction k with
    | zero => intro s h; exact h
    | succ k ih =>
      intro s h
      rcases hm : s.moved? with _ | t
      · simpa [State.settleIn, hm] using h
      · simp only [State.settleIn, hm]
        exact ih t (hmove s t h hm)
  exact this _ s h

/-- `settled` is at rest. -/
theorem State.settled_rest (s : State) : s.settled.moved? = none := by
  have : ∀ (k : Nat) (s : State), s.moveRank ≤ k → (State.settleIn k s).moved? = none := by
    intro k
    induction k with
    | zero =>
      intro s h
      rcases hm : s.moved? with _ | t
      · exact hm
      · have := State.moveRank_lt hm
        omega
    | succ k ih =>
      intro s h
      rcases hm : s.moved? with _ | t
      · simp only [State.settleIn, hm]
      · have := State.moveRank_lt hm
        simp only [State.settleIn, hm]
        exact ih t (by omega)
  exact this _ s s.moveRank_le

/-! What no move changes. -/

/-- The fields that no move changes are as before. -/
structure Unmoved (s t : State) : Prop where
  id : t.id = s.id
  var : t.var = s.var
  mode : t.mode = s.mode
  extSel : t.extSel = s.extSel
  mcuImgSel : t.mcuImgSel = s.mcuImgSel
  verifyReq : t.verifyReq = s.verifyReq
  offset : t.offset = s.offset
  unprotect : t.unprotect = s.unprotect
  st : t.st = s.st
  uc : t.uc = s.uc
  xport : t.xport = s.xport
  device : t.device = s.device
  bs : t.bs = s.bs
  mcu : t.mcu = s.mcu
  hostIn : t.hostIn = s.hostIn
  extIn : t.extIn = s.extIn
  cfg : t.cfg = s.cfg

theorem Unmoved.refl (s : State) : Unmoved s s := by constructor <;> rfl

theorem Unmoved.trans {s t u : State} (h : Unmoved s t) (h' : Unmoved t u) : Unmoved s u where
  id := h'.id.trans h.id
  var := h'.var.trans h.var
  mode := h'.mode.trans h.mode
  extSel := h'.extSel.trans h.extSel
  mcuImgSel := h'.mcuImgSel.trans h.mcuImgSel
  verifyReq := h'.verifyReq.trans h.verifyReq
  offset := h'.offset.trans h.offset
  unprotect := h'.unprotect.trans h.unprotect
  st := h'.st.trans h.st
  uc := h'.uc.trans h.uc
  xport := h'.xport.trans h.xport
  device := h'.device.trans h.device
  bs := h'.bs.trans h.bs
  mcu := h'.mcu.trans h.mcu
  hostIn := h'.hostIn.trans h.hostIn
  extIn := h'.extIn.trans h.extIn
  cfg := h'.cfg.trans h.cfg

theorem Unmoved.ofReturn (s : State) (o : SeqOutcome) : Unmoved s (s.returnOutcome o) := by constructor <;> simp

theorem State.countWait_unmoved (s : State) : Unmoved s s.countWait := by
  unfold State.countWait
  simp only []
  split <;> constructor <;> rfl

theorem State.move_unmoved (s : State) (q : Seq) (n : Nat) (c : Ctl) : Unmoved s (s.move q n c) := by
  cases c with
  | callEncoding => simp only [State.move]; split <;> constructor <;> rfl
  | retOk | retAcc | retRet => exact .ofReturn _ _
  | retDone want code =>
    simp only [State.move, State.returnByDone]
    split
    · exact .ofReturn _ _
    · exact .trans (t := s.logEntry .error code (statusOr s.st)) (by constructor <;> rfl) (.ofReturn _ _)
  | pollNext mask value code k =>
    simp only [State.move, State.pollNext]
    split
    · constructor <;> rfl
    · split
      · constructor <;> rfl
      · exact .trans (by constructor <;> rfl) (.ofReturn _ _)
  | requireProgrammable =>
    simp only [State.move, State.requireProgrammable]
    split
    · constructor <;> rfl
    · exact .trans (by constructor <;> rfl) (.ofReturn _ _)
  | chunkNext k | attemptNext k | burstNext k | pageNext k | wordNext k | bitNext k =>
    simp only [State.move]
    split <;> constructor <;> rfl
  | checksumEnd =>
    simp only [State.move, State.checksumEnd, State.returnAdvisory]
    split <;> exact .trans (by constructor <;> rfl) (.ofReturn _ _)
  | warnVerify => cases h : s.verifyReq <;> simp only [State.move, h] <;> constructor <;> rfl
  | extReturn =>
    simp only [State.move, State.externalEnd]
    split
    · exact .trans (by constructor <;> rfl) (.ofReturn _ _)
    · split <;> exact .ofReturn _ _
  | replyBytes => exact .trans (by constructor <;> rfl) (.ofReturn _ _)
  | waitNext k =>
    simp only [State.move, State.waitNext]
    split
    · exact .trans s.countWait_unmoved (.trans (by constructor <;> rfl) (.ofReturn _ _))
    · split
      · exact .trans s.countWait_unmoved (by constructor <;> rfl)
      · exact .trans s.countWait_unmoved (.trans (by constructor <;> rfl) (.ofReturn _ _))
  | _ => constructor <;> rfl

/-- `settled` changes none of these fields. -/
theorem State.settled_unmoved (s : State) : Unmoved s s.settled := by
  refine State.settled_induct (Unmoved s) ?_ (.refl s)
  intro a t ha hm
  obtain ⟨q, n, _, ⟨c, _, rfl⟩ | ⟨d, _, _, rfl⟩⟩ := a.moved?_cases hm
  · exact ha.trans (a.move_unmoved q n c)
  · exact ha.trans (by constructor <;> rfl)

@[simp] theorem State.settled_id (s : State) : s.settled.id = s.id := s.settled_unmoved.id
@[simp] theorem State.settled_var (s : State) : s.settled.var = s.var := s.settled_unmoved.var
@[simp] theorem State.settled_mode (s : State) : s.settled.mode = s.mode := s.settled_unmoved.mode
@[simp] theorem State.settled_extSel (s : State) : s.settled.extSel = s.extSel := s.settled_unmoved.extSel
@[simp] theorem State.settled_mcuImgSel (s : State) : s.settled.mcuImgSel = s.mcuImgSel := s.settled_unmoved.mcuImgSel
@[simp] theorem State.settled_verifyReq (s : State) : s.settled.verifyReq = s.verifyReq := s.settled_unmoved.verifyReq
@[simp] theorem State.settled_offset (s : State) : s.settled.offset = s.offset := s.settled_unmoved.offset
@[simp] theorem State.settled_unprotect (s : State) : s.settled.unprotect = s.unprotect := s.settled_unmoved.unprotect
@[simp] theorem State.settled_st (s : State) : s.settled.st = s.st := s.settled_unmoved.st
@[simp] theorem State.settled_uc (s : State) : s.settled.uc = s.uc := s.settled_unmoved.uc
@[simp] theorem State.settled_xport (s : State) : s.settled.xport = s.xport := s.settled_unmoved.xport
@[simp] theorem State.settled_device (s : State) : s.settled.device = s.device := s.settled_unmoved.device
@[simp] theorem State.settled_bs (s : State) : s.settled.bs = s.bs := s.settled_unmoved.bs
@[simp] theorem State.settled_mcu (s : State) : s.settled.mcu = s.mcu := s.settled_unmoved.mcu
@[simp] theorem State.settled_hostIn (s : State) : s.settled.hostIn = s.hostIn := s.settled_unmoved.hostIn
@[simp] theorem State.settled_extIn (s : State) : s.settled.extIn = s.extIn := s.settled_unmoved.extIn
@[simp] theorem State.settled_cfg (s : State) : s.settled.cfg = s.cfg := s.settled_unmoved.cfg

end Sys2Proof.Machine
end

