-- ==== Sys2Proof/Laws/Step.lean ====
section
/-! SUPPORT. All that one step can have done: the inversion of the machine's step, of the engine's, and of a transport
operation's. -/

namespace Sys2Proof.Machine

/-! Commands (R172 to R174). -/

/-- A command issues its IR shift and leaves its device effect to the latch clocks. -/
theorem exec_command (c : Cmd) (s : State) : exec c.instr s = .next (s.shiftCommand c (effectOf c)) := by
  cases c <;> rfl

/-! Clocked waits (R178). -/

/-- A clocked wait is one Toggle, or nothing when its count is 0. -/
theorem State.clockFor_eq (s : State) (us : Word) :
    s.clockFor us = s.onXport fun x => if clockCount s.xport.freq us = 0 then x else x.toggle (clockCount s.xport.freq us) := by
  unfold State.clockFor
  split
  · simp [State.onXport]
  · simp

/-! What a transport operation of a sequence changes. -/

/-- All that a transport operation can do: a capture of a register, the last shift of a read of the SPI master, or a change of
the transport alone. -/
inductive Performed (s t : State) : Wire → Prop where
  | readSt (ht : t = { s with xport := t.xport, st := some s.answerWord })
      (hx : t.xport = s.xport.capture readProbe 32 .runTestIdle) : Performed s t .readSt
  | readUc (ht : t = { s with xport := t.xport, uc := some s.answerWord })
      (hx : t.xport = s.xport.capture readProbe 32 .runTestIdle) : Performed s t .readUc
  | readReturn (ht : t = { s with xport := t.xport, returned := some (.idCode s.answerWord) })
      (hx : t.xport = s.xport.capture readProbe 32 .runTestIdle) : Performed s t .readReturn
  | captureId (ht : t = { s with xport := t.xport, id := s.answerWord, var := resolve s.cfg s.answerWord,
                                 extSel := (resolve s.cfg s.answerWord).extFlashForced })
      (hx : t.xport = s.xport.capture readProbe 32 .runTestIdle) : Performed s t .captureId
  | spiRead (w : Wire) (hw : w = .bscanHigh ∨ w = .encBShift) (ht : t = { s with xport := t.xport, rxb := t.rxb })
      (out : List Byte) (n : Nat) (hx : t.xport = s.xport.capture out n .runTestIdle) : Performed s t w
  | quiet (w : Wire) (ht : t = { s with xport := t.xport }) (ops : List TOp)
      (hi : t.xport.issued = s.xport.issued ++ ops) (hir : t.xport.ir = s.xport.ir)
      (hr : t.xport.replies = s.xport.replies) (hd : t.xport.draws = s.xport.draws)
      (hops : ops.length ≤ 1 ∧ ∀ o ∈ ops, ∀ b, o ≠ .ir b) : Performed s t w

theorem State.perform_ok {s t : State} {w : Wire} (h : s.perform w = .ok t) : Performed s t w := by
  have quiet : ∀ {w : Wire} (f : Transport → Transport) (op : TOp), t = s.onXport f → (∀ b, op ≠ .ir b) →
      (f s.xport).issued = s.xport.issued ++ [op] → (f s.xport).ir = s.xport.ir →
      (f s.xport).replies = s.xport.replies → (f s.xport).draws = s.xport.draws → Performed s t w := by
    intro w f op ht hop h1 h2 h3 h4
    subst ht
    exact .quiet w rfl [op] h1 h2 h3 h4 ⟨Nat.le_refl 1, by simpa using hop⟩
  cases w with
  | readSt => cases h; exact .readSt rfl rfl
  | readUc => cases h; exact .readUc rfl rfl
  | readReturn => cases h; exact .readReturn rfl rfl
  | captureId => cases h; exact .captureId rfl rfl
  | clkFor d =>
    cases h
    rw [State.clockFor_eq]
    by_cases h0 : clockCount s.xport.freq (s.delayUs d) = 0
    · simp only [h0, if_true]
      exact .quiet _ rfl [] (by simp) rfl rfl rfl ⟨by simp, by simp⟩
    · simp only [h0, if_false]
      exact .quiet _ rfl [_] (by simp; rfl) rfl rfl rfl ⟨by simp, by simp⟩
  | chunkShift =>
    simp only [State.perform, State.chunkShift] at h
    split at h
    · cases h
    · cases h
      exact quiet _ (.dr _ _ _ false) rfl (by simp) rfl rfl rfl rfl
  | bscanHigh =>
    cases h
    by_cases hrd : s.fsm.spi.rd = true
    · have e : s.clockHigh = { s.capture [bscanByte s.var.pinmap false true s.dataIn] 8 .runTestIdle with
          rxb := putSerialBit s.rxb s.fsm.index (bitOf ((s.xport.answer 8).getD 0 0) s.var.pinmap.dout.val) } := by
        simp [State.clockHigh, hrd]
      rw [e]
      exact .spiRead _ (.inl rfl) rfl _ _ rfl
    · have e : s.clockHigh = s.bscan false true s.dataIn := by simp [State.clockHigh, hrd]
      rw [e]
      exact .quiet _ rfl [_] rfl rfl rfl rfl ⟨by simp, by simp⟩
  | encBShift =>
    cases h
    by_cases hrd : s.fsm.spi.rd = true
    · have e : s.passthroughShift = { s.capture (encBOut s.cfg s.txb true) s.encBBits .runTestIdle with
          rxb := (List.range (s.txb.length - 1)).map (encBByte (s.xport.answer s.encBBits)) } := by
        simp [State.passthroughShift, hrd]
      rw [e]
      exact .spiRead _ (.inr rfl) rfl _ _ rfl
    · have e : s.passthroughShift = s.shiftDR (encBOut s.cfg s.txb false) s.encBBits .runTestIdle := by
        simp [State.passthroughShift, hrd]
      rw [e]
      exact .quiet _ rfl [_] rfl rfl rfl rfl ⟨by simp, by simp⟩
  | setTap t => cases h; exact quiet _ _ rfl (by simp) rfl rfl rfl rfl
  | setFreq hz => cases h; exact quiet _ _ rfl (by simp) rfl rfl rfl rfl
  | flush => cases h; exact quiet _ _ rfl (by simp) rfl rfl rfl rfl
  | sleep us => cases h; exact quiet _ _ rfl (by simp) rfl rfl rfl rfl
  | burst => cases h; exact quiet _ _ rfl (by simp) rfl rfl rfl rfl
  | holdState => cases h; exact quiet _ _ rfl (by simp) rfl rfl rfl rfl
  | checksumShift => cases h; exact quiet _ _ rfl (by simp) rfl rfl rfl rfl
  | addrShift => cases h; exact quiet _ _ rfl (by simp) rfl rfl rfl rfl
  | wordShift => cases h; exact quiet _ _ rfl (by simp) rfl rfl rfl rfl
  | bscanStart =>
    cases h
    exact quiet (fun x => x.shiftDR [bscanByte s.var.pinmap false false false] 8 .runTestIdle)
      (.dr 8 [bscanByte s.var.pinmap false false false] .runTestIdle false) rfl (by simp) rfl rfl rfl rfl
  | bscanLow =>
    cases h
    exact quiet (fun x => x.shiftDR [bscanByte s.var.pinmap false false s.dataIn] 8 .runTestIdle)
      (.dr 8 [bscanByte s.var.pinmap false false s.dataIn] .runTestIdle false) rfl (by simp) rfl rfl rfl rfl
  | bscanEnd =>
    cases h
    exact quiet (fun x => x.shiftDR [bscanByte s.var.pinmap true false false] 8 .runTestIdle)
      (.dr 8 [bscanByte s.var.pinmap true false false] .runTestIdle false) rfl (by simp) rfl rfl rfl rfl
  | encBState => cases h; exact quiet _ _ rfl (by simp) rfl rfl rfl rfl

/-- Only a chunk's shift can fault, by a read past the image. -/
theorem State.perform_error {s : State} {w : Wire} {f : Fault} (h : s.perform w = .error f) :
    w = .chunkShift ∧
      s.bs.image.memRead (s.fsm.index * s.cfg.chunkBytes) (chunkSize s.cfg s.bs.image s.fsm.index) = none := by
  cases w with
  | chunkShift =>
    simp only [State.perform, State.chunkShift] at h
    split at h
    · rename_i hm; exact ⟨rfl, hm⟩
    · cases h
  | _ => simp [State.perform] at h

/-! One step of the engine. -/

/-- What a fetch of a host input means. -/
theorem fetchHost_cases (l : List HostInput) :
    (l = [] ∧ fetchHost l = .waiting) ∨
    (∃ bs rest, l = .request bs :: rest ∧ fetchHost l = .bytes .host bs) ∨
    (∃ w rest, l = w :: rest ∧ (∀ bs, w ≠ .request bs) ∧ fetchHost l = .hostWrite w) := by
  cases l with
  | nil => exact .inl ⟨rfl, rfl⟩
  | cons w rest =>
    cases w with
    | request bs => exact .inr (.inl ⟨bs, rest, rfl, rfl⟩)
    | _ => exact .inr (.inr ⟨_, rest, rfl, by simp, rfl⟩)

/-- What a fetch of an input of the external algorithm means. -/
theorem fetchExt_cases (l : List ExtInput) :
    (l = [] ∧ fetchExt l = .waiting) ∨
    (∃ bs rest, l = .request bs :: rest ∧ fetchExt l = .bytes .spi bs) ∨
    (∃ ok rest, l = .finish ok :: rest ∧ fetchExt l = .algorithmEnd ok) := by
  cases l with
  | nil => exact .inl ⟨rfl, rfl⟩
  | cons w rest =>
    cases w with
    | request bs => exact .inr (.inl ⟨bs, rest, rfl, rfl⟩)
    | finish ok => exact .inr (.inr ⟨ok, rest, rfl, rfl⟩)

/-- All that a step of the engine, its host or the external algorithm which gives a next state can have done. -/
inductive EngineTo (s t : State) : Prop where
  /-- Idle with no host input, or the external algorithm silent. -/
  | waits (h : s.fetch = .waiting) (ht : t = s)
  /-- A host input that is no request is taken. -/
  | hostWrite (w : HostInput) (rest : List HostInput) (hpc : s.pc = .idle) (hin : s.hostIn = w :: rest)
      (hw : ∀ bs, w ≠ .request bs) (ht : t = s.popHost.hostWrites w)
  /-- A host request is run. -/
  | hostRequest (bs : List Byte) (rest : List HostInput) (i : Instr) (left : List Byte) (hpc : s.pc = .idle)
      (hin : s.hostIn = .request bs :: rest) (hd : decodeHost bs = .ok (i, left)) (ht : exec i s.popHost = .next t)
  /-- A command of the sequence in progress is run: its IR shift. -/
  | command (q : Seq) (n : Nat) (c : Cmd) (hpc : s.pc = .at q n)
      (hm : microAt q n = some (.cmd c) ∨ ∃ b, microAt q n = some (.cmdByte b) ∧ decodeCommandByte s.cfg.op b = some c)
      (ht : t = ({ s with pc := .at q (n + 1) } : State).shiftCommand c (effectOf c))
  /-- A command's latch clocks. -/
  | latch (q : Seq) (n : Nat) (hpc : s.pc = .at q n) (hm : microAt q n = some .latch) (ht : t = s.latchCommand.advance)
  /-- Another transport operation. -/
  | wire (q : Seq) (n : Nat) (w : Wire) (u : State) (hpc : s.pc = .at q n) (hm : microAt q n = some (.op w))
      (hu : s.perform w = .ok u) (ht : t = u.advance)
  /-- A request of the external algorithm is run. -/
  | spiRequest (q : Seq) (n : Nat) (bs : List Byte) (rest : List ExtInput) (i : Instr) (left : List Byte)
      (hpc : s.pc = .at q n) (hm : microAt q n = some .algorithm) (hin : s.extIn = .request bs :: rest)
      (hd : decodeSpi bs = .ok (i, left)) (ht : exec i s.popExt = .next t)
  /-- The external algorithm has ended. -/
  | algorithmEnd (q : Seq) (n : Nat) (ok : Bool) (rest : List ExtInput) (hpc : s.pc = .at q n)
      (hm : microAt q n = some .algorithm) (hin : s.extIn = .finish ok :: rest) (ht : t = s.endAlgorithm ok)
  /-- The step pointer was at no transport operation: it comes to rest. -/
  | unsettled (q : Seq) (n : Nat) (c : Ctl) (hpc : s.pc = .at q n) (hm : microAt q n = some (.ctl c))
      (ht : t = s.settled)

/-- The inversion of the engine's step. -/
theorem engineStep_next {s t : State} (h : engineStep s = .next t) : EngineTo s t := by
  unfold engineStep at h
  rcases hpc : s.pc with _ | ⟨q, n⟩
  · rcases fetchHost_cases s.hostIn with ⟨_, hf⟩ | ⟨bs, rest, hl, hf⟩ | ⟨w, rest, hl, hw, hf⟩
    · have hF : s.fetch = .waiting := by simp [State.fetch, hpc, hf]
      simp only [hF, Host.Outcome.next.injEq] at h
      exact .waits hF h.symm
    · have hF : s.fetch = .bytes .host bs := by simp [State.fetch, hpc, hf]
      simp only [hF, decode] at h
      rcases hd : decodeHost bs with e | ⟨i, left⟩
      · simp [hd] at h
      · rw [hd] at h
        exact .hostRequest bs rest i left hpc hl hd h
    · have hF : s.fetch = .hostWrite w := by simp [State.fetch, hpc, hf]
      simp only [hF, Host.Outcome.next.injEq] at h
      exact .hostWrite w rest hpc hl hw h.symm
  · rcases hm : microAt q n with _ | m
    · have hF : s.fetch = .outside := by simp [State.fetch, hpc, hm]
      simp [hF] at h
    · cases m with
      | cmd c =>
        have hF : s.fetch = .command c := by simp [State.fetch, hpc, hm]
        simp only [hF, exec_command, State.consume_command, hpc, Pc.next_at, Host.Outcome.next.injEq] at h
        exact .command q n c hpc (.inl hm) h.symm
      | cmdByte b =>
        have hF : s.fetch = .bytes .command [b] := by simp [State.fetch, hpc, hm]
        simp only [hF, decode, decodeCommand] at h
        rcases hd : decodeCommandByte s.cfg.op b with _ | c
        · simp [hd] at h
        · rw [hd] at h
          simp only [exec_command, State.consume_command, hpc, Pc.next_at, Host.Outcome.next.injEq] at h
          exact .command q n c hpc (.inr ⟨b, hm, hd⟩) h.symm
      | latch =>
        have hF : s.fetch = .latch := by simp [State.fetch, hpc, hm]
        simp only [hF, Host.Outcome.next.injEq] at h
        exact .latch q n hpc hm h.symm
      | op w =>
        have hF : s.fetch = .wire w := by simp [State.fetch, hpc, hm]
        simp only [hF, wireStep] at h
        rcases hu : s.perform w with f | u
        · simp [hu] at h
        · rw [hu] at h
          exact .wire q n w u hpc hm hu (Host.Outcome.next.inj h).symm
      | ctl c =>
        have hF : s.fetch = .unsettled := by simp [State.fetch, hpc, hm]
        simp only [hF, Host.Outcome.next.injEq] at h
        exact .unsettled q n c hpc hm h.symm
      | algorithm =>
        rcases fetchExt_cases s.extIn with ⟨_, hf⟩ | ⟨bs, rest, hl, hf⟩ | ⟨ok, rest, hl, hf⟩
        · have hF : s.fetch = .waiting := by simp [State.fetch, hpc, hm, hf]
          simp only [hF, Host.Outcome.next.injEq] at h
          exact .waits hF h.symm
        · have hF : s.fetch = .bytes .spi bs := by simp [State.fetch, hpc, hm, hf]
          simp only [hF, decode] at h
          rcases hd : decodeSpi bs with e | ⟨i, left⟩
          · simp [hd] at h
          · rw [hd] at h
            exact .spiRequest q n bs rest i left hpc hm hl hd h
        · have hF : s.fetch = .algorithmEnd ok := by simp [State.fetch, hpc, hm, hf]
          simp only [hF, Host.Outcome.next.injEq] at h
          exact .algorithmEnd q n ok rest hpc hm hl h.symm

/-! The engine's step, forwards. -/

/-- A command's step is its IR shift. -/
theorem engineStep_cmd {s : State} {q : Seq} {n : Nat} {c : Cmd} (hpc : s.pc = .at q n)
    (hm : microAt q n = some (.cmd c)) :
    engineStep s = .next (({ s with pc := .at q (n + 1) } : State).shiftCommand c (effectOf c)) := by
  have hF : s.fetch = .command c := by simp [State.fetch, hpc, hm]
  simp only [engineStep, hF, exec_command, State.consume_command, hpc, Pc.next_at]

/-- The latch clocks' step. -/
theorem engineStep_latch {s : State} {q : Seq} {n : Nat} (hpc : s.pc = .at q n) (hm : microAt q n = some .latch) :
    engineStep s = .next s.latchCommand.advance := by
  have hF : s.fetch = .latch := by simp [State.fetch, hpc, hm]
  simp only [engineStep, hF]

/-- Another transport operation's step. -/
theorem engineStep_wire {s u : State} {q : Seq} {n : Nat} {w : Wire} (hpc : s.pc = .at q n)
    (hm : microAt q n = some (.op w)) (hu : s.perform w = .ok u) : engineStep s = .next u.advance := by
  have hF : s.fetch = .wire w := by simp [State.fetch, hpc, hm]
  simp only [engineStep, hF, wireStep, hu]

/-! One step of the machine. -/

/-- All that a step which gives a next state can have done: the transport performs an operation, or the engine steps. -/
theorem step_next {s t : State} (h : step s = .next t) :
    (s.xport.moves = true ∧ t = s.onXport Transport.perform) ∨ (s.xport.moves = false ∧ EngineTo s t) := by
  unfold step at h
  split at h
  · rename_i hx
    exact .inl ⟨hx, (Host.Outcome.next.inj h).symm⟩
  · rename_i hx
    exact .inr ⟨by simpa using hx, engineStep_next h⟩

theorem step_of_engine {s : State} (h : s.xport.moves = false) : step s = engineStep s := by simp [step, h]

theorem step_of_transport {s : State} (h : s.xport.moves = true) : step s = .next (s.onXport Transport.perform) := by
  simp [step, h]

end Sys2Proof.Machine
end

