-- ==== Sys2Proof/Laws/Sequencer.lean ====
section
/-! SUPPORT. For each operation of the sequencer that branches, the list of what it can do. -/

namespace Sys2Proof.Machine

/-- All that the entry behind a poll's read can do (R177): go on, read again, or time out with the last word. -/
theorem State.pollNext_cases (s : State) (q : Seq) (n : Nat) (mask value : Word) (code : Code) (k : Nat) :
    (matchesMask (statusOr s.st) mask value = true ∧
      s.pollNext q n mask value code k = { s with pollCnt := s.pollCnt + 1, pc := .at q (n + 1) }) ∨
    (matchesMask (statusOr s.st) mask value = false ∧ (s.pollCnt + 1).toNat < s.cfg.pollMax.toNat ∧
      s.pollNext q n mask value code k = { s with pollCnt := s.pollCnt + 1, pc := .at q k }) ∨
    (matchesMask (statusOr s.st) mask value = false ∧ s.cfg.pollMax.toNat ≤ (s.pollCnt + 1).toNat ∧
      s.pollNext q n mask value code k =
        ({ s with pollCnt := s.pollCnt + 1, log := s.log ++ [⟨.error, .pollTimeout, statusOr s.st⟩] } :
          State).returnOutcome (.fatal code (statusOr s.st))) := by
  rcases hm : matchesMask (statusOr s.st) mask value with _ | _
  · by_cases hc : (s.pollCnt + 1).toNat < s.cfg.pollMax.toNat
    · exact .inr (.inl ⟨rfl, hc, by simp only [State.pollNext, hm, Bool.false_eq_true, if_false, if_pos hc]; rfl⟩)
    · exact .inr (.inr ⟨rfl, by omega, by
        simp only [State.pollNext, hm, Bool.false_eq_true, if_false, if_neg hc]; rfl⟩)
  · exact .inl ⟨rfl, by simp only [State.pollNext, hm, if_true]; rfl⟩

/-- All that the return by DONE can do (R226, R234, R250, R266). -/
theorem State.returnByDone_cases (s : State) (want : Bool) (code : Code) :
    (flagSet (statusOr s.st) .done = want ∧ s.returnByDone want code = s.returnOutcome .ok) ∨
    (flagSet (statusOr s.st) .done ≠ want ∧
      s.returnByDone want code =
        (s.logEntry .error code (statusOr s.st)).returnOutcome (.advisory code (statusOr s.st))) := by
  unfold State.returnByDone
  split
  · exact .inl ⟨by assumption, rfl⟩
  · exact .inr ⟨by assumption, rfl⟩

/-- All that the precondition of ProgramFlash can do (R271). -/
theorem State.requireProgrammable_cases (s : State) (q : Seq) (n : Nat) :
    ((flagSet (statusOr s.st) .valid || flagSet (statusOr s.st) .por) = true ∧
      s.requireProgrammable q n = s.goto q (n + 1)) ∨
    ((flagSet (statusOr s.st) .valid || flagSet (statusOr s.st) .por) = false ∧
      s.requireProgrammable q n =
        (s.logEntry .error .notProgrammable (statusOr s.st)).returnOutcome
          (.fatal .notProgrammable (statusOr s.st))) := by
  unfold State.requireProgrammable
  split
  · exact .inl ⟨by assumption, rfl⟩
  · exact .inr ⟨Bool.eq_false_iff.mpr (by assumption), rfl⟩

/-- A chunk's shift reads its bytes and shifts them, or faults on a read past the image (R234). -/
theorem State.chunkShift_cases (s : State) :
    (s.bs.image.memRead (s.fsm.index * s.cfg.chunkBytes) (chunkSize s.cfg s.bs.image s.fsm.index) = none ∧
      ∃ a k, s.chunkShift = .error (.memReadOutOfRange a k)) ∨
    ∃ out, s.bs.image.memRead (s.fsm.index * s.cfg.chunkBytes) (chunkSize s.cfg s.bs.image s.fsm.index) = some out ∧
      s.chunkShift = .ok (s.shiftDR out (8 * chunkSize s.cfg s.bs.image s.fsm.index)
        (chunkStop s.cfg s.bs.image s.fsm.index)) := by
  unfold State.chunkShift
  split
  · exact .inl ⟨by assumption, _, _, rfl⟩
  · exact .inr ⟨_, by assumption, rfl⟩

/-- All that the checksum check's end can do (R278). -/
theorem State.checksumEnd_cases (s : State) :
    (checksumMatches s.cfg s.bs s.userCode = true ∧ s.checksumEnd =
      (s.logEntry .info .checksumOk s.userCode).returnOutcome .ok) ∨
    (checksumMatches s.cfg s.bs s.userCode = false ∧ s.checksumEnd =
      (s.logEntry .error .checksumMismatch s.userCode).returnOutcome (.advisory .checksumMismatch s.userCode)) := by
  rcases h : checksumMatches s.cfg s.bs s.userCode with _ | _
  · exact .inr ⟨rfl, by simp only [State.checksumEnd, h, Bool.false_eq_true, if_false]; rfl⟩
  · exact .inl ⟨rfl, by simp only [State.checksumEnd, h, if_true]⟩

/-- All that the return of ExternalFlash can do (R290, R372): each of the three ends. -/
theorem State.externalEnd_cases (s : State) :
    (s.fsm.algoOk = false ∧ s.externalEnd =
      (s.logEntry .error .extAlgoFailed 0).returnOutcome (.fatal .extAlgoFailed 0)) ∨
    (s.fsm.algoOk = true ∧ s.fsm.post.isFatal = true ∧ s.externalEnd = s.returnOutcome s.fsm.post) ∨
    (s.fsm.algoOk = true ∧ s.fsm.post.isFatal = false ∧ s.externalEnd = s.returnOutcome s.fsm.acc) := by
  rcases ha : s.fsm.algoOk with _ | _
  · exact .inl ⟨rfl, by simp [State.externalEnd, ha]⟩
  · rcases hp : s.fsm.post.isFatal with _ | _
    · exact .inr (.inr ⟨rfl, rfl, by simp [State.externalEnd, ha, hp]⟩)
    · exact .inr (.inl ⟨rfl, rfl, by simp [State.externalEnd, ha, hp]⟩)

/-- All that the entry behind a transaction of wait_until can do (R330): success, the next transaction, or the timeout. -/
theorem State.waitNext_cases (s : State) (q : Seq) (k : Nat) :
    (s.polledByte &&& s.fsm.spi.mask = s.fsm.spi.expected ∧
      s.waitNext q k = ({ s.countWait with spiReply := some .success } : State).returnOutcome .ok) ∨
    (s.polledByte &&& s.fsm.spi.mask ≠ s.fsm.spi.expected ∧
      s.countWait.pollCnt.toNat < s.fsm.spi.bound.toNat ∧ s.waitNext q k = s.countWait.goto q k) ∨
    (s.polledByte &&& s.fsm.spi.mask ≠ s.fsm.spi.expected ∧
      s.fsm.spi.bound.toNat ≤ s.countWait.pollCnt.toNat ∧
      s.waitNext q k =
        (({ s.countWait with spiReply := some (.timeoutError s.polledByte) } : State).logEntry .error .spiTimeout
          (s.polledByte.setWidth 32)).returnOutcome .ok) := by
  unfold State.waitNext
  split
  · exact .inl ⟨by assumption, rfl⟩
  · split
    · exact .inr (.inl ⟨by assumption, by assumption, rfl⟩)
    · exact .inr (.inr ⟨by assumption, by omega, rfl⟩)

/-- All that program can do (R340): the refusal, a ConfigError, or the start of the selected path. -/
theorem execProgram_cases (offset : Word) (unprotect : Bool) (s : State) :
    (s.mode = none ∧
      execProgram offset unprotect s = .next { s.refuse Req.program with returned := some .refused }) ∨
    ∃ m, s.mode = some m ∧
      ((∃ c, setupFailure (s.latchProgram offset unprotect) m = some c ∧
          execProgram offset unprotect s = .next ((s.latchProgram offset unprotect).raiseConfigError c)) ∨
       (setupFailure (s.latchProgram offset unprotect) m = none ∧ execProgram offset unprotect s =
          .next ((s.latchProgram offset unprotect).start (pathOf m (s.latchProgram offset unprotect).extSel)))) := by
  unfold execProgram
  rcases hm : s.mode with _ | m
  · exact .inl ⟨rfl, rfl⟩
  · refine .inr ⟨m, rfl, ?_⟩
    rcases hf : setupFailure (s.latchProgram offset unprotect) m with _ | c
    · exact .inr ⟨rfl, by simp only [hf]⟩
    · exact .inl ⟨c, rfl, by simp only [hf]⟩

/-- All that transfer can do (R312, R313): the refusal, or the start of its transaction. -/
theorem execTransfer_cases (cmd : Byte) (tx : Option (List Byte)) (rl : Option Word) (s : State) :
    (lengthsDisagree tx rl = true ∧
      execTransfer cmd tx rl s = .next { s.refuse Req.transfer with spiReply := some .refused }) ∨
    (lengthsDisagree tx rl = false ∧ execTransfer cmd tx rl s =
      .next ((s.loadSpi (transmitBytes cmd tx rl) (transferCall cmd rl)).startSpi .spiTransfer)) := by
  unfold execTransfer
  split
  · exact .inl ⟨by assumption, rfl⟩
  · exact .inr ⟨Bool.eq_false_iff.mpr (by assumption), rfl⟩

/-- All that wait_until can do (R330, R331): the refusal, or the start of its first transaction. -/
theorem execWaitUntil_cases (cmd mask expected : Byte) (bound : Word) (verbose : Bool) (s : State) :
    (bound = 0 ∧
      execWaitUntil cmd mask expected bound verbose s =
        .next { s.refuse Req.waitUntil with spiReply := some .refused }) ∨
    (bound ≠ 0 ∧ execWaitUntil cmd mask expected bound verbose s =
      .next ((s.loadSpi [cmd, 0] { cmd := cmd, mask := mask, expected := expected, bound := bound, verbose := verbose,
                                   rd := true }).startSpi .spiWait)) := by
  unfold execWaitUntil
  split
  · exact .inl ⟨by assumption, rfl⟩
  · exact .inr ⟨by assumption, rfl⟩

end Sys2Proof.Machine
end

