-- ==== Sys2Proof/Laws/Spi.lean ====
section
/-! SUPPORT. For each operation of the SPI master, what it changes and what it issues. -/

namespace Sys2Proof.Machine

theorem State.bscan_eq (s : State) (cs sck di : Bool) :
    s.bscan cs sck di = s.onXport fun x => x.shiftDR [bscanByte s.var.pinmap cs sck di] 8 .runTestIdle := rfl

/-- The clock-high shift changes the transport and RXB alone (R316). -/
theorem State.clockHigh_frame (s : State) :
    s.clockHigh = { s with xport := s.clockHigh.xport, rxb := s.clockHigh.rxb } := by
  unfold State.clockHigh
  split <;> rfl

/-- The clock-high shift is one 8-bit shift, captured when the transaction reads (R316). -/
theorem State.clockHigh_issued (s : State) :
    s.clockHigh.xport.issued = s.xport.issued ++
      [.dr 8 [bscanByte s.var.pinmap false true s.dataIn] .runTestIdle s.fsm.spi.rd] := by
  unfold State.clockHigh
  split <;> rename_i h <;> simp [h, State.bscan_eq]

/-- The clock-high shift of a transaction that does not read changes the transport alone. -/
theorem State.clockHigh_write {s : State} (h : s.fsm.spi.rd = false) : s.clockHigh = s.bscan false true s.dataIn := by
  simp [State.clockHigh, h]

/-- The clock-high shift of a transaction that reads puts its data-out bit into RXB (R316, R319). -/
theorem State.clockHigh_read {s : State} (h : s.fsm.spi.rd = true) :
    s.clockHigh = { s.capture [bscanByte s.var.pinmap false true s.dataIn] 8 .runTestIdle with
      rxb := putSerialBit s.rxb s.fsm.index (bitOf ((s.xport.answer 8).getD 0 0) s.var.pinmap.dout.val) } := by
  simp [State.clockHigh, h]

/-- The shift of an Encoding B transaction changes the transport and RXB alone (R322). -/
theorem State.passthroughShift_frame (s : State) :
    s.passthroughShift = { s with xport := s.passthroughShift.xport, rxb := s.passthroughShift.rxb } := by
  unfold State.passthroughShift
  split <;> rfl

/-- The shift of an Encoding B transaction, captured when it reads (R322). -/
theorem State.passthroughShift_issued (s : State) :
    s.passthroughShift.xport.issued = s.xport.issued ++
      [.dr s.encBBits (encBOut s.cfg s.txb s.fsm.spi.rd) .runTestIdle s.fsm.spi.rd] := by
  unfold State.passthroughShift
  split <;> rename_i h <;> simp [h]

/-- A transaction of wait_until is counted, and logged when verbose; nothing else changes (R330). -/
theorem State.countWait_eq (s : State) :
    s.countWait = { s with
      pollCnt := s.pollCnt + 1,
      log := s.log ++ (if s.fsm.spi.verbose then [⟨.info, .spiWait, s.polledByte.setWidth 32⟩] else []) } := by
  unfold State.countWait
  simp only []
  split
  · rfl
  · simp

end Sys2Proof.Machine
end

