-- ==== Sys2Proof/Laws/Interleave.lean ====
section
/-! SUPPORT. The transport's own steps and the engine's do not disturb one another: no operation of the engine reads how much of
the queue is performed, so that a run of the engine alone is matched by a run of the machine, the transport's steps standing
between (R10, R53). -/

namespace Sys2Proof.Machine

@[simp] theorem State.withPerformed_withPerformed (s : State) (p p' : Nat) :
    (s.withPerformed p).withPerformed p' = s.withPerformed p' := rfl

@[simp] theorem State.withPerformed_self (s : State) : s.withPerformed s.xport.performed = s := rfl

theorem State.onXport_perform (s : State) : s.onXport Transport.perform = s.withPerformed (s.xport.performed + 1) := rfl

/-! What reads nothing of the queue. -/

theorem State.returnOutcome_withPerformed (s : State) (p : Nat) (o : SeqOutcome) :
    (s.withPerformed p).returnOutcome o = (s.returnOutcome o).withPerformed p := by
  rcases h : unwind o s.callers with _ | ⟨f, fs⟩
  · rw [State.returnOutcome_finish h, State.returnOutcome_finish (s := s.withPerformed p) h]
    rfl
  · rw [State.returnOutcome_resume h, State.returnOutcome_resume (s := s.withPerformed p) h]
    rfl

theorem State.holds_withPerformed (s : State) (p : Nat) (c : Cond) : (s.withPerformed p).holds c = s.holds c := by
  cases c <;> rfl

theorem State.countWait_withPerformed (s : State) (p : Nat) :
    (s.withPerformed p).countWait = s.countWait.withPerformed p := by
  simp only [State.countWait_eq]
  rfl

theorem State.move_withPerformed (s : State) (p : Nat) (q : Seq) (n : Nat) (c : Ctl) :
    (s.withPerformed p).move q n c = (s.move q n c).withPerformed p := by
  have ret : ∀ (u : State) (o : SeqOutcome), (u.withPerformed p).returnOutcome o = (u.returnOutcome o).withPerformed p :=
    fun u o => u.returnOutcome_withPerformed p o
  cases c with
  | callEncoding =>
    simp only [State.move]
    rcases h : s.var.spiEncoding with _ | _
    · rw [show (s.withPerformed p).var.spiEncoding = .encA from h]; rfl
    · rw [show (s.withPerformed p).var.spiEncoding = .encB from h]; rfl
  | branch b k => simp only [State.move, State.holds_withPerformed]; rfl
  | retOk => exact ret s .ok
  | retAcc => exact ret s s.fsm.acc
  | retRet => exact ret s s.fsm.ret
  | retDone want code =>
    simp only [State.move]
    rcases s.returnByDone_cases want code with ⟨h, e⟩ | ⟨h, e⟩
    · rw [e, ← ret]
      unfold State.returnByDone
      exact if_pos h
    · rw [e, ← ret]
      unfold State.returnByDone
      exact if_neg h
  | pollNext mask value code k =>
    simp only [State.move, State.pollNext]
    by_cases h : matchesMask (statusOr s.st) mask value = true
    · rw [if_pos h, if_pos (show matchesMask (statusOr (s.withPerformed p).st) mask value = true from h)]; rfl
    · rw [if_neg h, if_neg (show ¬ matchesMask (statusOr (s.withPerformed p).st) mask value = true from h)]
      by_cases hc : (s.pollCnt + 1).toNat < s.cfg.pollMax.toNat
      · rw [if_pos hc, if_pos (show ((s.withPerformed p).pollCnt + 1).toNat < (s.withPerformed p).cfg.pollMax.toNat from hc)]
        rfl
      · rw [if_neg hc, if_neg (show ¬ ((s.withPerformed p).pollCnt + 1).toNat < (s.withPerformed p).cfg.pollMax.toNat from hc),
          ← ret]
        rfl
  | requireProgrammable =>
    simp only [State.move]
    rcases s.requireProgrammable_cases q n with ⟨h, e⟩ | ⟨h, e⟩
    · rw [e]
      unfold State.requireProgrammable
      exact if_pos h
    · rw [e, ← ret]
      unfold State.requireProgrammable
      exact if_neg (by rw [Bool.not_eq_true]; exact h)
  | chunkNext k =>
    simp only [State.move]
    by_cases h : s.fsm.index + 1 < chunkCount s.cfg s.bs.image
    · rw [if_pos h]; exact if_pos h
    · rw [if_neg h]; exact if_neg h
  | attemptNext k =>
    simp only [State.move]
    by_cases h : flagSet (statusOr s.st) .done ∧ s.attempt.toNat + 1 < eraseAttempts
    · rw [if_pos h]; exact if_pos h
    · rw [if_neg h]; exact if_neg h
  | burstNext k =>
    simp only [State.move]
    by_cases h : s.fsm.index + 1 < s.var.nBursts
    · rw [if_pos h]; exact if_pos h
    · rw [if_neg h]; exact if_neg h
  | pageNext k =>
    simp only [State.move]
    by_cases h : s.fsm.index + 1 < pageCount s.curImage
    · rw [if_pos h]; exact if_pos h
    · rw [if_neg h]; exact if_neg h
  | wordNext k =>
    simp only [State.move]
    by_cases h : s.word.toNat + 1 < wordsPerPage
    · rw [if_pos h]; exact if_pos h
    · rw [if_neg h]; exact if_neg h
  | bitNext k =>
    simp only [State.move]
    by_cases h : s.fsm.index + 1 < s.spiBitCount
    · rw [if_pos h]; exact if_pos h
    · rw [if_neg h]; exact if_neg h
  | checksumEnd =>
    simp only [State.move]
    rcases s.checksumEnd_cases with ⟨h, e⟩ | ⟨h, e⟩
    · rw [e, ← ret]
      unfold State.checksumEnd
      exact if_pos h
    · rw [e, ← ret]
      unfold State.checksumEnd
      exact if_neg (by rw [Bool.not_eq_true]; exact h)
  | warnVerify => rcases h : s.verifyReq with _ | _ <;> simp [State.move, State.withPerformed, h, State.onXport, State.goto, State.logEntry]
  | extReturn =>
    simp only [State.move]
    rcases s.externalEnd_cases with ⟨h, e⟩ | ⟨h, h', e⟩ | ⟨h, h', e⟩
    · rw [e, ← ret]
      unfold State.externalEnd
      exact if_pos (by simp [State.withPerformed, h])
    · rw [e, ← ret]
      unfold State.externalEnd
      rw [if_neg (by simp [State.withPerformed, h])]
      exact if_pos h'
    · rw [e, ← ret]
      unfold State.externalEnd
      rw [if_neg (by simp [State.withPerformed, h])]
      exact if_neg (by rw [Bool.not_eq_true]; exact h')
  | replyBytes =>
    simp only [State.move]
    rw [← ret]
    rfl
  | waitNext k =>
    simp only [State.move, State.waitNext, State.countWait_withPerformed]
    by_cases h : s.polledByte &&& s.fsm.spi.mask = s.fsm.spi.expected
    · rw [if_pos h, ← ret]
      exact if_pos h
    · rw [if_neg h, if_neg (show ¬ (s.withPerformed p).polledByte &&& (s.withPerformed p).fsm.spi.mask =
        (s.withPerformed p).fsm.spi.expected from h)]
      by_cases hc : s.countWait.pollCnt.toNat < s.fsm.spi.bound.toNat
      · rw [if_pos hc]
        exact if_pos hc
      · rw [if_neg hc, ← ret]
        exact if_neg hc
  | _ => rfl

theorem State.moved?_withPerformed (s : State) (p : Nat) :
    (s.withPerformed p).moved? = s.moved?.map fun t => t.withPerformed p := by
  rcases hpc : s.pc with _ | ⟨q, n⟩
  · simp [State.moved?, State.withPerformed, hpc]
  · have hpc' : (s.withPerformed p).pc = .at q n := hpc
    rcases hm : microAt q n with _ | m
    · simp [State.moved?, hpc, hpc', hm]
    · cases m with
      | ctl c => simp [State.moved?, hpc, hpc', hm, State.move_withPerformed]
      | op w =>
        cases w with
        | clkFor d =>
          have hd : (s.withPerformed p).delayUs d = s.delayUs d := by cases d <;> rfl
          have hf : (s.withPerformed p).xport.freq = s.xport.freq := rfl
          simp only [State.moved?, hpc, hpc', hm, hd, hf]
          split <;> rfl
        | _ => simp [State.moved?, hpc, hpc', hm]
      | _ => simp [State.moved?, hpc, hpc', hm]

/-- The step pointer comes to rest as it would with another part of the queue performed. -/
theorem State.settled_withPerformed (s : State) (p : Nat) : (s.withPerformed p).settled = s.settled.withPerformed p := by
  have : ∀ (k : Nat) (s : State),
      State.settleIn k (s.withPerformed p) = (State.settleIn k s).withPerformed p := by
    intro k
    induction k with
    | zero => intro s; rfl
    | succ k ih =>
      intro s
      rcases h : s.moved? with _ | t
      · simp [State.settleIn, State.moved?_withPerformed, h]
      · simp only [State.settleIn, State.moved?_withPerformed, h, Option.map_some]
        exact ih t
  exact this s.moveBound s

theorem State.advance_withPerformed (s : State) (p : Nat) : (s.withPerformed p).advance = s.advance.withPerformed p :=
  State.settled_withPerformed { s with pc := s.pc.next } p

theorem State.start_withPerformed (s : State) (p : Nat) (q : Seq) :
    (s.withPerformed p).start q = (s.start q).withPerformed p :=
  State.settled_withPerformed { s with pc := .at q 0, callers := [], returned := none } p

theorem State.startSpi_withPerformed (s : State) (p : Nat) (q : Seq) :
    (s.withPerformed p).startSpi q = (s.startSpi q).withPerformed p :=
  State.settled_withPerformed
    { s with pc := .at q 0, callers := ⟨.externalFlash, algorithmStep, false⟩ :: s.callers, spiReply := none } p

/-- An instruction does the same whatever part of the queue is performed. -/
theorem exec_withPerformed {i : Instr} {s t : State} (h : exec i s = .next t) (p : Nat) :
    exec i (s.withPerformed p) = .next (t.withPerformed p) := by
  cases i with
  | program o u =>
    simp only [exec] at h ⊢
    rcases execProgram_cases o u s with ⟨hm, e⟩ | ⟨m, hm, ⟨c, hf, e⟩ | ⟨hf, e⟩⟩ <;>
      rw [h, Host.Outcome.next.injEq] at e <;> subst e
    · rcases execProgram_cases o u (s.withPerformed p) with ⟨_, e⟩ | ⟨m', hm', _⟩
      · exact e
      · rw [show (s.withPerformed p).mode = s.mode from rfl, hm] at hm'; cases hm'
    · have hm' : (s.withPerformed p).mode = some m := hm
      have hf' : setupFailure ((s.withPerformed p).latchProgram o u) m = some c := hf
      simp only [execProgram, hm', hf']
      rfl
    · have hm' : (s.withPerformed p).mode = some m := hm
      have hf' : setupFailure ((s.withPerformed p).latchProgram o u) m = none := hf
      simp only [execProgram, hm', hf']
      rw [← State.start_withPerformed]
      rfl
  | reset | readIdCode | readStatusRegister =>
    cases h
    exact congrArg Host.Outcome.next (s.start_withPerformed p _)
  | transfer c tx rl =>
    simp only [exec] at h ⊢
    rcases execTransfer_cases c tx rl s with ⟨hl, e⟩ | ⟨hl, e⟩ <;> rw [h, Host.Outcome.next.injEq] at e <;> subst e
    · simp only [execTransfer, hl, if_true]; rfl
    · simp only [execTransfer, hl, Bool.false_eq_true, if_false]
      rw [← State.startSpi_withPerformed]
      rfl
  | waitUntil c m e b v =>
    simp only [exec] at h ⊢
    rcases execWaitUntil_cases c m e b v s with ⟨hb, he⟩ | ⟨hb, he⟩ <;> rw [h, Host.Outcome.next.injEq] at he <;>
      subst he
    · simp only [execWaitUntil, hb, if_true]; rfl
    · simp only [execWaitUntil, hb, if_false]
      rw [← State.startSpi_withPerformed]
      rfl
  | _ => cases h; rfl

/-- A transport operation does the same, but that a barrier leaves everything performed. -/
theorem State.perform_withPerformed {s t : State} {w : Wire} (h : s.perform w = .ok t) (p : Nat) :
    ∃ p', (s.withPerformed p).perform w = .ok (t.withPerformed p') := by
  cases w with
  | readSt | readUc | readReturn | captureId | flush => cases h; exact ⟨_, rfl⟩
  | clkFor d =>
    cases h
    refine ⟨p, ?_⟩
    have hd : (s.withPerformed p).delayUs d = s.delayUs d := by cases d <;> rfl
    simp only [State.perform, hd, State.clockFor_eq]
    by_cases h0 : clockCount s.xport.freq (s.delayUs d) = 0
    · simp only [h0, if_true, show (s.withPerformed p).xport.freq = s.xport.freq from rfl]
      rfl
    · simp only [h0, if_false, show (s.withPerformed p).xport.freq = s.xport.freq from rfl]
      rfl
  | chunkShift =>
    rcases s.chunkShift_cases with ⟨_, a, k, e⟩ | ⟨out, hm, e⟩
    · rw [State.perform, e] at h; cases h
    · rw [State.perform, e] at h
      cases h
      refine ⟨p, ?_⟩
      rcases (s.withPerformed p).chunkShift_cases with ⟨hm', _⟩ | ⟨out', hm', e'⟩
      · rw [show (s.withPerformed p).bs = s.bs from rfl, show (s.withPerformed p).fsm = s.fsm from rfl,
          show (s.withPerformed p).cfg = s.cfg from rfl, hm] at hm'
        cases hm'
      · rw [show (s.withPerformed p).bs = s.bs from rfl, show (s.withPerformed p).fsm = s.fsm from rfl,
          show (s.withPerformed p).cfg = s.cfg from rfl, hm] at hm'
        cases hm'
        exact e'
  | bscanHigh =>
    cases h
    rcases hr : s.fsm.spi.rd with _ | _
    · refine ⟨p, ?_⟩
      rw [State.perform, State.clockHigh_write hr, State.clockHigh_write (s := s.withPerformed p) hr]
      rfl
    · refine ⟨s.clockHigh.xport.performed, ?_⟩
      rw [State.perform, State.clockHigh_read hr, State.clockHigh_read (s := s.withPerformed p) hr]
      rfl
  | encBShift =>
    cases h
    rcases hr : s.fsm.spi.rd with _ | _
    · refine ⟨p, ?_⟩
      simp only [State.perform, State.passthroughShift, hr, show (s.withPerformed p).fsm.spi.rd = false from hr,
        Bool.false_eq_true, if_false]
      rfl
    · refine ⟨s.passthroughShift.xport.performed, ?_⟩
      simp only [State.perform, State.passthroughShift, hr, show (s.withPerformed p).fsm.spi.rd = true from hr, if_true]
      rfl
  | _ => cases h; exact ⟨p, rfl⟩

/-- The engine's step does the same whatever part of the queue is performed, but that a barrier leaves everything
performed. -/
theorem engineStep_withPerformed {s t : State} (h : engineStep s = .next t) (p : Nat) :
    ∃ p', engineStep (s.withPerformed p) = .next (t.withPerformed p') := by
  have hF : (s.withPerformed p).fetch = s.fetch := rfl
  unfold engineStep at h ⊢
  rw [hF]
  rcases hf : s.fetch with _ | w | ⟨pt, bs⟩ | c | _ | w | ok | _ | _ <;> rw [hf] at h <;> simp only [] at h ⊢
  · cases h; exact ⟨p, rfl⟩
  · cases h
    refine ⟨p, ?_⟩
    cases w with
    | setMcuImg im => cases im <;> rfl
    | _ => rfl
  · rcases hd : decode s.cfg.op pt bs with e | ⟨i, left⟩
    · simp [hd] at h
    · rw [hd] at h
      rw [show (s.withPerformed p).cfg.op = s.cfg.op from rfl, hd]
      refine ⟨p, ?_⟩
      have := exec_withPerformed h p
      cases pt <;> exact this
  · exact ⟨p, exec_withPerformed h p⟩
  · cases h
    exact ⟨p, congrArg _ (s.latchCommand.advance_withPerformed p)⟩
  · unfold wireStep at h ⊢
    rcases hu : s.perform w with f | u
    · simp [hu] at h
    · rw [hu] at h
      cases h
      obtain ⟨p', hp⟩ := State.perform_withPerformed hu p
      refine ⟨p', ?_⟩
      rw [hp]
      exact congrArg _ (u.advance_withPerformed p')
  · cases h
    exact ⟨p, congrArg _ (({ s.popExt with fsm := { s.fsm with algoOk := ok } } : State).advance_withPerformed p)⟩
  · cases h
    exact ⟨p, congrArg _ (s.settled_withPerformed p)⟩
  · cases h

/-! Runs. -/

theorem runSteps_succ {s t : State} (h : step s = .next t) (k : Nat) : runSteps (k + 1) s = runSteps k t := by
  simp [runSteps, stepsOf, h]

theorem engineSteps_succ {s t : State} (h : engineStep s = .next t) (k : Nat) :
    engineSteps (k + 1) s = engineSteps k t := by
  simp [engineSteps, stepsOf, h]

theorem stepsOf_add {f : State → Host.Outcome State Fault Refusal} {t : State} (j : Nat) :
    ∀ {k : Nat} {s : State}, stepsOf f k s = .next t → stepsOf f (k + j) s = stepsOf f j t
  | 0, s, h => by
    cases h
    rw [Nat.zero_add]
  | k + 1, s, h => by
    rw [Nat.add_right_comm]
    simp only [stepsOf] at h ⊢
    rcases hs : f s with u | r | r
    · rw [hs] at h
      exact stepsOf_add j h
    · rw [hs] at h; cases h
    · rw [hs] at h; cases h

/-- The transport's steps come to an end, and then the engine moves. -/
theorem engine_turn (s : State) : ∃ k p, runSteps k s = .next (s.withPerformed p) ∧ (s.withPerformed p).xport.moves = false := by
  have : ∀ (d : Nat) (s : State), s.xport.queued.length - s.xport.performed = d →
      ∃ k p, runSteps k s = .next (s.withPerformed p) ∧ (s.withPerformed p).xport.moves = false := by
    intro d
    induction d with
    | zero => intro s h; exact ⟨0, s.xport.performed, rfl, Transport.moves_of_drained (by simp only [State.withPerformed_self]; omega)⟩
    | succ d ih =>
      intro s h
      rcases hx : s.xport.moves with _ | _
      · exact ⟨0, s.xport.performed, rfl, hx⟩
      · have hlt := Transport.lt_of_moves hx
        obtain ⟨k, p, h1, h2⟩ := ih (s.onXport Transport.perform) (by simp; omega)
        refine ⟨k + 1, p, ?_, h2⟩
        rw [runSteps_succ (step_of_transport hx)]
        exact h1
  exact this _ s rfl

/-- A run of the engine alone is matched by a run of the machine, which differs only in how much of the queue is performed. -/
theorem runSteps_of_engineSteps {t : State} : ∀ {k : Nat} {s : State}, engineSteps k s = .next t → ∀ p,
    ∃ k' p', runSteps k' (s.withPerformed p) = .next (t.withPerformed p')
  | 0, s, h, p => by
    cases h
    exact ⟨0, p, rfl⟩
  | k + 1, s, h, p => by
    simp only [engineSteps, stepsOf] at h
    rcases hs : engineStep s with u | r | r
    · rw [hs] at h
      obtain ⟨k1, p1, h1, h2⟩ := engine_turn (s.withPerformed p)
      rw [State.withPerformed_withPerformed] at h1 h2
      obtain ⟨p2, h3⟩ := engineStep_withPerformed hs p1
      obtain ⟨k4, p4, h4⟩ := runSteps_of_engineSteps (k := k) h p2
      refine ⟨k1 + (k4 + 1), p4, ?_⟩
      unfold runSteps at h1 ⊢
      rw [stepsOf_add _ h1]
      have h5 := step_of_engine h2
      rw [h3] at h5
      exact (runSteps_succ h5 k4).trans h4
    · rw [hs] at h; cases h
    · rw [hs] at h; cases h

/-- The same from the state itself. -/
theorem exists_run_of_engineSteps {k : Nat} {s t : State} (h : engineSteps k s = .next t) :
    ∃ k' p', runSteps k' s = .next (t.withPerformed p') := by
  obtain ⟨k', p', h'⟩ := runSteps_of_engineSteps h s.xport.performed
  exact ⟨k', p', h'⟩

end Sys2Proof.Machine
end

