-- ==== Sys2Proof/Laws/Memory.lean ====
section
/-! SUPPORT. The laws of the image memory: read after write, and that writing keeps the canonical form. -/

namespace Sys2Proof.Machine

theorem lookupCell_of_lt {lo : Nat} : ∀ {cs : List Host.Cell} {a : Nat}, cellsFrom lo cs = true → a < lo →
    lookupCell cs a = unlistedByte
  | [], _, _, _ => rfl
  | c :: cs, a, h, ha => by
    simp only [cellsFrom, Bool.and_eq_true, decide_eq_true_eq] at h
    have hne : c.1 ≠ a := by omega
    simp only [lookupCell, hne, if_false]
    exact lookupCell_of_lt h.2 (by omega)

theorem cellsFrom_mono {lo lo' : Nat} (hl : lo' ≤ lo) : ∀ {cs : List Host.Cell}, cellsFrom lo cs = true →
    cellsFrom lo' cs = true
  | [], _ => rfl
  | c :: cs, h => by
    simp only [cellsFrom, Bool.and_eq_true, decide_eq_true_eq] at h ⊢
    exact ⟨⟨by omega, h.1.2⟩, h.2⟩

theorem writeCell_from : ∀ {cs : List Host.Cell} {lo a : Nat} {b : Byte}, cellsFrom lo cs = true → lo ≤ a →
    cellsFrom lo (writeCell cs a b) = true
  | [], lo, a, b, _, ha => by
    simp only [writeCell]
    split
    · rfl
    · simp [cellsFrom, *]
  | c :: cs, lo, a, b, h, ha => by
    have h' := h
    simp only [cellsFrom, Bool.and_eq_true, decide_eq_true_eq] at h
    simp only [writeCell]
    split
    · split
      · exact h'
      · simp only [cellsFrom, Bool.and_eq_true, decide_eq_true_eq, bne_iff_ne, ne_eq]
        exact ⟨⟨ha, by assumption⟩, ⟨by omega, by simpa using h.1.2⟩, h.2⟩
    · split
      · split
        · exact cellsFrom_mono (by omega) h.2
        · simp only [cellsFrom, Bool.and_eq_true, decide_eq_true_eq, bne_iff_ne, ne_eq]
          refine ⟨⟨ha, by assumption⟩, ?_⟩
          have : a = c.1 := by assumption
          rw [this]; exact h.2
      · simp only [cellsFrom, Bool.and_eq_true, decide_eq_true_eq]
        exact ⟨h.1, writeCell_from h.2 (by omega)⟩

/-- A write keeps the canonical form. -/
theorem Memory.write_wf {m : Memory} (h : m.wf = true) (a : Nat) (b : Byte) : (m.write a b).wf = true :=
  writeCell_from h (Nat.zero_le a)

theorem lookupCell_writeCell_same : ∀ {cs : List Host.Cell} {lo a : Nat} {b : Byte}, cellsFrom lo cs = true →
    lookupCell (writeCell cs a b) a = b
  | [], _, a, b, _ => by
    simp only [writeCell]
    split <;> simp_all [lookupCell]
  | c :: cs, lo, a, b, h => by
    have h' := h
    simp only [cellsFrom, Bool.and_eq_true, decide_eq_true_eq] at h
    simp only [writeCell]
    split
    · rename_i hlt
      split
      · rename_i hb
        have hne : c.1 ≠ a := by omega
        simp only [lookupCell, hne, if_false, hb]
        exact lookupCell_of_lt h.2 (by omega)
      · simp [lookupCell]
    · split
      · rename_i heq
        split
        · rename_i hb
          rw [hb]; exact lookupCell_of_lt h.2 (by omega)
        · simp [lookupCell]
      · rename_i h1 h2
        have hne : c.1 ≠ a := fun e => h2 e.symm
        simp only [lookupCell, hne, if_false]
        exact lookupCell_writeCell_same h.2

theorem lookupCell_writeCell_other : ∀ {cs : List Host.Cell} {a a' : Nat} {b : Byte}, a ≠ a' → 
    lookupCell (writeCell cs a b) a' = lookupCell cs a'
  | [], a, a', b, hne => by
    simp only [writeCell]
    split <;> simp [lookupCell, hne]
  | c :: cs, a, a', b, hne => by
    simp only [writeCell]
    split
    · split
      · rfl
      · simp [lookupCell, hne]
    · split
      · rename_i heq
        have : c.1 ≠ a' := by omega
        split <;> simp [lookupCell, this, hne]
      · simp only [lookupCell]
        split
        · rfl
        · exact lookupCell_writeCell_other hne

/-- A read of the byte just written gives it. -/
theorem Memory.read_write_same {m : Memory} (h : m.wf = true) (a : Nat) (b : Byte) : (m.write a b).read a = b :=
  lookupCell_writeCell_same h

/-- A write leaves every other byte. -/
theorem Memory.read_write_other (m : Memory) {a a' : Nat} (h : a ≠ a') (b : Byte) :
    (m.write a b).read a' = m.read a' := lookupCell_writeCell_other h

theorem Memory.empty_wf : Memory.empty.wf = true := rfl

theorem Memory.fill_wf : ∀ (bs : List Byte) (a : Nat) {m : Memory}, m.wf = true → (Memory.fill bs a m).wf = true
  | [], _, _, h => h
  | b :: bs, a, _, h => Memory.fill_wf bs (a + 1) (Memory.write_wf h a b)

/-- The buffer of a byte list is in canonical form. -/
theorem Memory.ofBytes_wf (bs : List Byte) : (Memory.ofBytes bs).wf = true := Memory.fill_wf bs 0 rfl

theorem Memory.read_fill_below : ∀ (bs : List Byte) (a : Nat) (m : Memory) {i : Nat}, i < a →
    (Memory.fill bs a m).read i = m.read i
  | [], _, _, _, _ => rfl
  | b :: bs, a, m, i, h => by
    rw [Memory.fill, Memory.read_fill_below bs (a + 1) _ (by omega), Memory.read_write_other m (by omega)]

theorem Memory.read_fill : ∀ (bs : List Byte) (a : Nat) {m : Memory}, m.wf = true → ∀ {i : Nat} (h : i < bs.length),
    (Memory.fill bs a m).read (a + i) = bs[i]
  | b :: bs, a, m, hm, 0, h => by
    rw [Memory.fill, Memory.read_fill_below bs (a + 1) _ (by omega), Nat.add_zero, Memory.read_write_same hm]; rfl
  | b :: bs, a, m, hm, i + 1, h => by
    have := Memory.read_fill bs (a + 1) (Memory.write_wf hm a b) (i := i) (by simpa using h)
    rw [Memory.fill, show a + (i + 1) = a + 1 + i by omega, this]; rfl

end Sys2Proof.Machine
end

