-- ==== Sys2Proof/Laws/PerInstr.lean ====
section
/-! SUPPORT. The family PortRoundTrip: what an instruction's bytes decode to at its port, one lemma for each constructor. -/

namespace Sys2Proof.Laws

open Machine (leBytes leWord)

/-- The bytes of a word give the word (R77, R79). -/
theorem leWord_leBytes (w : Word) :
    leWord (w.extractLsb' 0 8) (w.extractLsb' 8 8) (w.extractLsb' 16 8) (w.extractLsb' 24 8) = w := by
  unfold leWord
  ext i hi
  have bit : ∀ j, w.getLsbD j = if h : j < 32 then w[j] else false := fun j => by
    split
    · rw [← BitVec.getLsbD_eq_getElem]
    · exact BitVec.getLsbD_of_ge _ _ (by omega)
  simp only [BitVec.getElem_append, BitVec.getElem_extractLsb', bit]
  split
  · simp_all
  · split
    · simp only [show 8 + (i - 8) = i by omega, hi, dif_pos]
    · split
      · simp only [show 16 + (i - 8 - 8) = i by omega, hi, dif_pos]
      · simp only [show 24 + (i - 8 - 8 - 8) = i by omega, hi, dif_pos]

/-- A flag's byte decodes to the flag. -/
theorem decodeFlag_encodeFlag (code : Byte) (f : Bool) : decodeFlag code (encodeFlag f) = .ok f := by
  cases f <;> rfl

/-- The write bytes of a transfer decode back, when the layout can count them. -/
theorem decodeWriteBytes_encode (tx : Option (List Byte)) (h : ∀ l, tx = some l → l.length < 2 ^ 32)
    (rest : List Byte) :
    decodeWriteBytes (encodeFlag tx.isSome) (encodeWriteBytes tx ++ rest) = .ok (tx, rest) := by
  cases tx with
  | none => rfl
  | some l =>
    have hl : (BitVec.ofNat 32 l.length).toNat = l.length := by
      rw [BitVec.toNat_ofNat]; exact Nat.mod_eq_of_lt (h l rfl)
    simp [decodeWriteBytes, encodeFlag, encodeWriteBytes, leBytes, leWord_leBytes, hl]

/-- The read length of a transfer decodes back. -/
theorem decodeReadLength_encode (rl : Option Word) (rest : List Byte) :
    decodeReadLength (encodeFlag rl.isSome) (encodeReadLength rl ++ rest) = .ok (rl, rest) := by
  cases rl with
  | none => rfl
  | some n => simp [decodeReadLength, encodeFlag, encodeReadLength, leBytes, leWord_leBytes]

/-- Different IR values tell the commands apart. -/
theorem code_inj {o : OpCodes} (ho : o.distinct = true) (c d : Cmd) : (o.code d == o.code c) = (d == c) := by
  have hn : (Cmd.all.map o.code).Nodup := of_decide_eq_true ho
  have hmem : ∀ e : Cmd, e ∈ Cmd.all := by intro e; cases e <;> decide
  by_cases h : d = c
  · simp [h]
  · have : o.code d ≠ o.code c := fun e => h (List.inj_on_of_nodup_map hn (hmem d) (hmem c) e)
    simp [h, this]

/-- The IR value of a command stands for that command, where no two commands have one value. -/
theorem decodeCommandByte_code {o : OpCodes} (ho : o.distinct = true) (c : Cmd) :
    decodeCommandByte o (o.code c) = some c := by
  simp only [decodeCommandByte, code_inj ho]
  cases c <;> rfl

/-- The bytes of a well-formed instruction, followed by any others, decode at its port to it, the others left, whatever
the IR values, as long as no two commands have one. -/
def PortRoundTrip.Statement (i : Instr) : Prop :=
  ∀ o : OpCodes, o.distinct = true → i.wf = true → ∀ rest : List Byte, decode o i.port (encode o i ++ rest) = .ok (i, rest)

/-- A command's byte decodes to it. -/
theorem roundTrip_command (c : Cmd) : PortRoundTrip.Statement c.instr := by
  intro o ho _ rest
  have h := decodeCommandByte_code ho c
  cases c <;> simp only [Cmd.instr, Instr.port, encode, decode, decodeCommand, List.cons_append, List.nil_append, h]

theorem PortRoundTrip.opNoop : Statement .opNoop := roundTrip_command .noop

theorem PortRoundTrip.opEraseSram : Statement .opEraseSram := roundTrip_command .eraseSram

theorem PortRoundTrip.opFinalize2 : Statement .opFinalize2 := roundTrip_command .finalize2

theorem PortRoundTrip.opXferDone : Statement .opXferDone := roundTrip_command .xferDone

theorem PortRoundTrip.opFinalize1 : Statement .opFinalize1 := roundTrip_command .finalize1

theorem PortRoundTrip.opReadIdcode : Statement .opReadIdcode := roundTrip_command .readIdcode

theorem PortRoundTrip.opInitAddr : Statement .opInitAddr := roundTrip_command .initAddr

theorem PortRoundTrip.opReadUsercode : Statement .opReadUsercode := roundTrip_command .readUsercode

theorem PortRoundTrip.opEnable : Statement .opEnable := roundTrip_command .enable

theorem PortRoundTrip.opSpiPassthrough : Statement .opSpiPassthrough := roundTrip_command .spiPassthrough

theorem PortRoundTrip.opXferWrite : Statement .opXferWrite := roundTrip_command .xferWrite

theorem PortRoundTrip.opDisable : Statement .opDisable := roundTrip_command .disable

theorem PortRoundTrip.opReload : Statement .opReload := roundTrip_command .reload

theorem PortRoundTrip.opExtFinal : Statement .opExtFinal := roundTrip_command .extFinal

theorem PortRoundTrip.opReadStatus : Statement .opReadStatus := roundTrip_command .readStatus

theorem PortRoundTrip.opFlashProgram : Statement .opFlashProgram := roundTrip_command .flashProgram

theorem PortRoundTrip.opFlashErase : Statement .opFlashErase := roundTrip_command .flashErase

theorem PortRoundTrip.reset : Statement .reset := fun _ _ _ _ => rfl

theorem PortRoundTrip.readIdCode : Statement .readIdCode := fun _ _ _ _ => rfl

theorem PortRoundTrip.readStatusRegister : Statement .readStatusRegister := fun _ _ _ _ => rfl

theorem PortRoundTrip.program (offset : Word) (unprotect : Bool) : Statement (.program offset unprotect) := by
  intro _ _ _ rest
  simp [Instr.port, encode, decode, decodeHost, decodeProgram, leBytes, leWord_leBytes, decodeFlag_encodeFlag]

theorem PortRoundTrip.transfer (command : Byte) (writeBytes : Option (List Byte)) (readLength : Option Word) :
    Statement (.transfer command writeBytes readLength) := by
  intro _ _ h rest
  have hw : ∀ l, writeBytes = some l → l.length < 2 ^ 32 := by
    rintro l rfl
    simpa [Instr.wf] using h
  simp [Instr.port, encode, decode, decodeSpi, decodeTransfer, decodeWriteBytes_encode writeBytes hw,
    decodeReadLength_encode, List.append_assoc]

theorem PortRoundTrip.waitUntil (command mask expected : Byte) (bound : Word) (verbose : Bool) :
    Statement (.waitUntil command mask expected bound verbose) := by
  intro _ _ _ rest
  simp [Instr.port, encode, decode, decodeSpi, decodeWaitUntil, leBytes, leWord_leBytes, decodeFlag_encodeFlag,
    Req.transfer, Req.waitUntil]

end Sys2Proof.Laws
end

