-- ==== Sys2Proof/Tests/Slice0.lean ====
section
/-! SUPPORT. The model's own tests: the smoke test of WellFormed, each constructor's decoding from a word written out from
the spec, vectors of 95_test_vectors.md, and for each statement with hypotheses a state and operands that meet them. -/

namespace Sys2Proof.Tests

open Sys2Proof.Machine Sys2Proof.Claims

/-! The states the tests use: the parameters TP of 95_test_vectors.md, a transport with a script of replies. -/

/-- TP, with FILETYPE_OK accepting every use of the file type of the tests' bitstream. -/
def tp : Params :=
  { Params.sample with
      fileTypeRuled := [(([], .volatile, false), true), (([], .nonVolatile, false), true), (([], .nonVolatile, true), true)] }

def wires (r : List (List Byte)) : Transport :=
  { freq := 2500000, tap := .runTestIdle, ir := 0x02, issued := [], performed := 0, replies := r, draws := 0 }

def machine (id : Word) (r : List (List Byte)) : State := State.constructed tp id (wires r)

/-- The image of program P3: six bytes. -/
def sixBytes : Bitstream :=
  { image := Image.ofBytes [0xDE, 0xAD, 0xBE, 0xEF, 0x01, 0x02], fileType := [], parses := true, checksum := 0x1234,
    header := [] }

/-- A machine inside a sequence. -/
def running (q : Seq) (n : Nat) (fs : List Frame) (r : List (List Byte)) : State :=
  { machine 0x12345678 r with mode := some .volatile, bs := sixBytes, pc := .at q n, callers := fs }

/-- The caller of EraseSRAM on the volatile path. -/
def eraseCaller : Frame := ⟨.programVolatile, 2, true⟩

def nextOf : Host.Outcome State Fault Refusal → Option State
  | .next t => some t
  | .fault _ => none
  | .refused _ => none

/-- A part of the next state. -/
def seen {α : Type} (o : Host.Outcome State Fault Refusal) (f : State → α) : Option α := (nextOf o).map f

/-- A part of the state that the engine reaches in `k` of its steps from the next state. -/
def ran {α : Type} (k : Nat) (o : Host.Outcome State Fault Refusal) (f : State → α) : Option α :=
  (nextOf o).bind fun t => seen (engineSteps k t) f

/-- The operations of the next state, and the device effect that waits for the latch clocks. -/
def shifted (o : Host.Outcome State Fault Refusal) : Option (List TOp × Option DeviceEffect) :=
  seen o fun t => (t.xport.issued, t.fsm.latch)

def isRefused : Host.Outcome State Fault Refusal → Bool
  | .refused _ => true
  | _ => false

/-! ## WellFormed: its one check refuses a term whose write bytes the layout cannot count. -/

theorem test_wf_refuses_uncountable_write_bytes :
    Instr.wf (.transfer 0x02 (some (List.replicate (2 ^ 32) 0)) none) = false := by
  simp only [Instr.wf, List.length_replicate, Nat.lt_irrefl, decide_false]

theorem test_wf_accepts_a_transfer : Instr.wf (.transfer 0x02 (some [0x12, 0x34]) none) = true := by decide

/-! ## Decoding: the words of 30_encoding.md R114 and R131, bit 7 first. -/

theorem test_decode_opNoop : decode OpCodes.table .command [0b00000010] = .ok (.opNoop, []) := rfl
theorem test_decode_opEraseSram : decode OpCodes.table .command [0b00000101] = .ok (.opEraseSram, []) := rfl
theorem test_decode_opFinalize2 : decode OpCodes.table .command [0b00001000] = .ok (.opFinalize2, []) := rfl
theorem test_decode_opXferDone : decode OpCodes.table .command [0b00001001] = .ok (.opXferDone, []) := rfl
theorem test_decode_opFinalize1 : decode OpCodes.table .command [0b00001010] = .ok (.opFinalize1, []) := rfl
theorem test_decode_opReadIdcode : decode OpCodes.table .command [0b00010001] = .ok (.opReadIdcode, []) := rfl
theorem test_decode_opInitAddr : decode OpCodes.table .command [0b00010010] = .ok (.opInitAddr, []) := rfl
theorem test_decode_opReadUsercode : decode OpCodes.table .command [0b00010011] = .ok (.opReadUsercode, []) := rfl
theorem test_decode_opEnable : decode OpCodes.table .command [0b00010101] = .ok (.opEnable, []) := rfl
theorem test_decode_opSpiPassthrough : decode OpCodes.table .command [0b00010110] = .ok (.opSpiPassthrough, []) := rfl
theorem test_decode_opXferWrite : decode OpCodes.table .command [0b00010111] = .ok (.opXferWrite, []) := rfl
theorem test_decode_opDisable : decode OpCodes.table .command [0b00111010] = .ok (.opDisable, []) := rfl
theorem test_decode_opReload : decode OpCodes.table .command [0b00111100] = .ok (.opReload, []) := rfl
theorem test_decode_opExtFinal : decode OpCodes.table .command [0b00111101] = .ok (.opExtFinal, []) := rfl
theorem test_decode_opReadStatus : decode OpCodes.table .command [0b01000001] = .ok (.opReadStatus, []) := rfl
theorem test_decode_opFlashProgram : decode OpCodes.table .command [0b01110001] = .ok (.opFlashProgram, []) := rfl
theorem test_decode_opFlashErase : decode OpCodes.table .command [0b01110101] = .ok (.opFlashErase, []) := rfl
theorem test_decode_program :
    decode OpCodes.table .host [0b00000001, 0x78, 0x56, 0x34, 0x12, 1] = .ok (.program 0x12345678 true, []) := rfl
theorem test_decode_reset : decode OpCodes.table .host [0b00000010] = .ok (.reset, []) := rfl
theorem test_decode_readIdCode : decode OpCodes.table .host [0b00000011] = .ok (.readIdCode, []) := rfl
theorem test_decode_readStatusRegister : decode OpCodes.table .host [0b00000100] = .ok (.readStatusRegister, []) := rfl
theorem test_decode_transfer :
    decode OpCodes.table .spi [0b00010000, 0x02, 1, 0, 2, 0, 0, 0, 0x12, 0x34] =
      .ok (.transfer 0x02 (some [0x12, 0x34]) none, []) := rfl
theorem test_decode_waitUntil :
    decode OpCodes.table .spi [0b00010001, 0x05, 0x01, 0x00, 10, 0, 0, 0, 0] =
      .ok (.waitUntil 0x05 0x01 0x00 10 false, []) := rfl

/-- R116: a value outside the table is no command. -/
theorem test_decode_unknown_command : decode OpCodes.table .command [0x14] = .error (.unknownCommand 0x14) := rfl

/-- R13: another parameter, another IR value; the default's is then no command. -/
theorem test_decode_other_parameter :
    decode { OpCodes.table with noop := 0x99 } .command [0x99] = .ok (.opNoop, []) ∧
    decode { OpCodes.table with noop := 0x99 } .command [0x02] = .error (.unknownCommand 0x02) := ⟨rfl, rfl⟩

/-- The two codes that are a command and a request too: the command channel comes first (log 2). -/
theorem test_table_word_shared_codes :
    decodeTableWord 8 0x02 = some .opNoop ∧ decodeTableWord 8 0x11 = some .opReadIdcode := by decide

/-- A table word at its port is what the next step runs (R121, log 20). -/
theorem test_fetch_word :
    shifted (step ((machine 0x12345678 []).withFetchWord 8 0x15)) = some ([.ir 0x15], some .enterEditMode) ∧
    seen (step ((machine 0x12345678 []).withFetchWord 8 0x01)) (·.log) = some [⟨.error, .refused, 1⟩] ∧
    seen (step ((machine 0x12345678 []).withFetchWord 8 0x10)) (·.pc) = some (.at .transferA 1) := by decide

/-! ## Commands: the IR shift of R172 (V20, V21), the effect of the command's rule left to the latch clocks. -/

theorem test_exec_opNoop : shifted (exec .opNoop (machine 0x12345678 [])) = some ([.ir 0x02], none) := by decide
theorem test_exec_opEraseSram : shifted (exec .opEraseSram (machine 0x12345678 [])) = some ([.ir 0x05], some .startSramErase) := by decide
theorem test_exec_opFinalize2 : shifted (exec .opFinalize2 (machine 0x12345678 [])) = some ([.ir 0x08], some .endLoad) := by decide
theorem test_exec_opXferDone : shifted (exec .opXferDone (machine 0x12345678 [])) = some ([.ir 0x09], none) := by decide
theorem test_exec_opFinalize1 : shifted (exec .opFinalize1 (machine 0x12345678 [])) = some ([.ir 0x0A], none) := by decide
theorem test_exec_opReadIdcode : shifted (exec .opReadIdcode (machine 0x12345678 [])) = some ([.ir 0x11], some .selectIdcode) := by decide
theorem test_exec_opInitAddr : shifted (exec .opInitAddr (machine 0x12345678 [])) = some ([.ir 0x12], some .setLoadStart) := by decide
theorem test_exec_opReadUsercode : shifted (exec .opReadUsercode (machine 0x12345678 [])) = some ([.ir 0x13], some .selectUsercode) := by decide
theorem test_exec_opEnable : shifted (exec .opEnable (machine 0x12345678 [])) = some ([.ir 0x15], some .enterEditMode) := by decide
theorem test_exec_opSpiPassthrough : shifted (exec .opSpiPassthrough (machine 0x12345678 [])) = some ([.ir 0x16], some .connectSpiFlash) := by decide
theorem test_exec_opXferWrite : shifted (exec .opXferWrite (machine 0x12345678 [])) = some ([.ir 0x17], some .streamToSram) := by decide
theorem test_exec_opDisable : shifted (exec .opDisable (machine 0x12345678 [])) = some ([.ir 0x3A], some .leaveEditMode) := by decide
theorem test_exec_opReload : shifted (exec .opReload (machine 0x12345678 [])) = some ([.ir 0x3C], some .reload) := by decide
theorem test_exec_opExtFinal : shifted (exec .opExtFinal (machine 0x12345678 [])) = some ([.ir 0x3D], some .exitSequence) := by decide
theorem test_exec_opReadStatus : shifted (exec .opReadStatus (machine 0x12345678 [])) = some ([.ir 0x41], some .selectStatus) := by decide
theorem test_exec_opFlashProgram : shifted (exec .opFlashProgram (machine 0x12345678 [])) = some ([.ir 0x71], some .pageFollows) := by decide
theorem test_exec_opFlashErase : shifted (exec .opFlashErase (machine 0x12345678 [])) = some ([.ir 0x75], some .eraseFlash) := by decide

/-- R172, R173: the step behind the IR shift is the 5 clocks, with which the effect comes. -/
theorem test_latch_clocks :
    ran 1 (step (running .enable 0 [eraseCaller] [])) (fun t => (t.xport.issued, t.device, t.fsm.latch, t.pc)) =
      some ([.ir 0x15, .clk 5], [.selectIdcode, .enterEditMode], none, .at .enable 3) := by decide

/-! ## Requests. -/

/-- P1, V138: the word returned with its flags; bit 19 carries none. -/
theorem test_read_status_register :
    ran 3 (exec .readStatusRegister (machine 0x12345678 [[0x00, 0x20, 0x08, 0x00]])) (fun t => (t.st, t.returned)) =
      some (some 0x00082000, some (.status 0x00082000 [.done])) := by decide

/-- V137: a fresh identity is returned, ID stays. -/
theorem test_read_id_code :
    ran 3 (exec .readIdCode (machine 0x0900281B [[0x1B, 0x98, 0x00, 0x01]])) (fun t => (t.id, t.returned)) =
      some (0x0900281B, some (.idCode 0x0100981B)) := by decide

/-- V136. -/
theorem test_reset :
    ran 4 (exec .reset (machine 0x12345678 [])) (fun t => (t.xport.issued, t.result)) =
      some ([.ir 0x3C, .clk 5, .ir 0x02, .clk 5], some .ok) := by decide

/-- V130: refused with MODE unset. -/
theorem test_program_refused :
    seen (exec (.program 0 false) (machine 0x12345678 [])) (fun t => (t.log, t.result, t.xport.issued)) =
      some ([⟨.error, .refused, 0x01⟩], none, []) := by decide

/-- V135: the forced external flash overrides the host's EXT_SEL. -/
theorem test_program_forced_external :
    seen (exec (.program 0 false) { machine 0x0000081B [] with mode := some .nonVolatile, extSel := false, bs := sixBytes })
      (fun t => (t.extSel, t.pc)) = some (true, .at .externalFlash 0) := by decide

/-- V118: Encoding B's one-bit frame offset. -/
theorem test_transfer_encoding_b :
    ran 4 (exec (.transfer 0x05 none (some 1)) (machine 0x0000001B [[0x00, 0x4A, 0x01]]))
      (fun t => (t.xport.issued.getLast?, t.spiReply)) =
      some (some (.dr 17 [0xA0, 0x00, 0x00] .runTestIdle true), some (.bytes [0xA5])) := by decide

/-- V110: the bytes of a command-only transaction by Encoding A. -/
theorem test_transfer_encoding_a :
    ran 18 (exec (.transfer 0x06 none none) (machine 0x12345678 []))
      (fun t => t.xport.issued.map fun op => match op with | .dr _ [b] _ _ => b | _ => 0) =
      some [0xC0, 0xC0, 0xC2, 0xC0, 0xC2, 0xC0, 0xC2, 0xC0, 0xC2, 0xC0, 0xC2, 0xE0, 0xE2, 0xE0, 0xE2, 0xC0, 0xC2, 0xC8] := by
  decide

/-- S2: a match at transaction 3 of 3 is a success (by Encoding B, answers 0x01, 0x01, 0x00). -/
theorem test_wait_until_success :
    ran 12 (exec (.waitUntil 0x05 0x01 0x00 3 false)
        (machine 0x0000001B [[0, 0x00, 0x01], [0, 0x00, 0x01], [0, 0x00, 0x00]]))
      (fun t => (t.spiReply, t.pollCnt)) = some (some .success, 3) := by decide

/-- S2: with bound 2 it is a timeout with the last byte. -/
theorem test_wait_until_timeout :
    ran 8 (exec (.waitUntil 0x05 0x01 0x00 2 false)
        (machine 0x0000001B [[0, 0x00, 0x01], [0, 0x00, 0x01], [0, 0x00, 0x00]]))
      (fun t => (t.spiReply, t.log)) = some (some (.timeoutError 0x01), [⟨.error, .spiTimeout, 0x01⟩]) := by decide

/-! ## Vectors of the shared operations. -/

/-- V4, V11, V12, V14. -/
theorem test_decode_status :
    decodeStatus 0x210 = [.reserved4, .reserved9] ∧ decodeStatus 0xFFF82000 = [.done] ∧
    decodeStatus 0x0007FFFF = flagNames ∧ decodeStatus 0xA0 = [.memErase, .systemEdit] := by decide

/-- V25, V29, V31. -/
theorem test_clock_count :
    clockCount 2500000 150000 = 375000 ∧ clockCount 2500000 1 = 2 ∧ clockCount 100000 5 = 0 := by decide

/-- V70: the first two words of page 0 of a five-byte image. -/
theorem test_page_words :
    pageWord (pageContent Params.sample.autobootSig (Image.ofBytes [1, 2, 3, 4, 5]) 0 0) 0 = [0x4E, 0x31, 0x57, 0x47] ∧
    pageWord (pageContent Params.sample.autobootSig (Image.ofBytes [1, 2, 3, 4, 5]) 0 0) 1 = [0xFF, 0xFF, 0xFF, 0x05] := by
  decide

/-- V41, V42, V43, V45: the descriptors of TP's table, and of no device answering. -/
theorem test_resolve :
    (resolve Params.sample 0x0100981B).pinmap = Params.sample.pinmapSwapped ∧
    (resolve Params.sample 0x0000081B).extExit = .disableNoop ∧
    (resolve Params.sample 0x0000001B).flashWrite = false ∧
    resolve Params.sample 0x00000000 = defaultVariant Params.sample ∧
    resolve Params.sample 0xFFFFFFFF = defaultVariant Params.sample := by decide

/-- The parameters of the tests meet the spec's constraints on them; a second row for an identity, a forced external flash
with the checksum algorithm known (R52), or a row for an identity of no device (R200), breaks them. -/
theorem test_sample_wf : tp.wf = true ∧
    shapeOk ((0x0900281B, ⟨true, false, true, false, .encA, .finalOpcode, 0, 0⟩) :: tp.variantTable) = false ∧
    shapeOk ((0x11111111, ⟨false, false, true, true, .encA, .finalOpcode, 3, 9⟩) :: tp.variantTable) = false ∧
    shapeOk ((0xFFFFFFFF, ⟨false, false, true, false, .encA, .finalOpcode, 9, 9⟩) :: tp.variantTable) = false ∧
    shapeOk ((0x00000000, ⟨false, false, true, false, .encA, .finalOpcode, 9, 9⟩) :: tp.variantTable) = false ∧
    shapeOk ((0x11111111, ⟨false, false, true, false, .encA, .finalOpcode, 9, 9⟩) :: tp.variantTable) = true := by decide

/-- A refused step at the host's port: bytes that are no request (R351). -/
theorem test_unknown_host_request :
    isRefused (step { machine 0x12345678 [] with hostIn := [.request [0x7F]] }) = true := by decide

/-! ## Witnesses: for each statement with hypotheses, what meets them. -/

theorem witness_DecodeOfEncode : OpCodes.table.distinct = true ∧ Instr.wf (.program 0xFFFFFFFF true) = true ∧
    Instr.wf .opNoop = true := by decide

theorem witness_DecodeOnlyEncodings :
    decode OpCodes.table .command [0x41] = .ok (.opReadStatus, []) ∧
    decode OpCodes.table .host [0x03, 0x55] = .ok (.readIdCode, [0x55]) ∧
    decode OpCodes.table .spi [0x10, 0x06, 0, 0] = .ok (.transfer 0x06 none none, []) := ⟨rfl, rfl, rfl⟩

theorem witness_StepRunsDecoded_host : ∃ (s : State) (bs left : List Byte) (rest : List HostInput) (i : Instr),
    engineTurn s ∧ s.pc = .idle ∧ s.hostIn = .request bs :: rest ∧ decode s.cfg.op .host bs = .ok (i, left) :=
  ⟨{ machine 0x12345678 [] with hostIn := [.request [0x03]] }, [0x03], [], [], .readIdCode, rfl, rfl, rfl, rfl⟩

theorem witness_StepRunsDecoded_spi : ∃ (s : State) (q : Seq) (n : Nat) (bs left : List Byte) (rest : List ExtInput)
    (i : Instr), engineTurn s ∧ s.pc = .at q n ∧ microAt q n = some .algorithm ∧ s.extIn = .request bs :: rest ∧
    decode s.cfg.op .spi bs = .ok (i, left) :=
  ⟨{ running .externalFlash 16 [] [] with extIn := [.request [0x10, 0x06, 0, 0]] }, .externalFlash, 16, [0x10, 0x06, 0, 0],
    [], [], .transfer 0x06 none none, rfl, rfl, rfl, rfl, rfl⟩

theorem witness_StepRunsDecoded_command : ∃ (s1 s2 : State) (q : Seq) (n : Nat) (c : Cmd) (b : Byte) (i : Instr),
    (engineTurn s1 ∧ s1.pc = .at q n ∧ microAt q n = some (.cmd c)) ∧
    (engineTurn s2 ∧ s2.pc = .at (.single b) 0 ∧ microAt (.single b) 0 = some (.cmdByte b) ∧
      decode s2.cfg.op .command [b] = .ok (i, [])) :=
  ⟨running .enable 0 [] [], running (.single 0x41) 0 [] [], .enable, 0, .enable, 0x41, .opReadStatus, ⟨rfl, rfl, rfl⟩,
    rfl, rfl, rfl, rfl⟩

theorem witness_UndecodableRefused_host : ∃ (s : State) (bs : List Byte) (rest : List HostInput) (e : DecodeError),
    engineTurn s ∧ s.pc = .idle ∧ s.hostIn = .request bs :: rest ∧ decode s.cfg.op .host bs = .error e :=
  ⟨{ machine 0x12345678 [] with hostIn := [.request [0x05]] }, [0x05], [], .unknownHostRequest 0x05, rfl, rfl, rfl, rfl⟩

theorem witness_UndecodableRefused_spi : ∃ (s : State) (q : Seq) (n : Nat) (bs : List Byte) (rest : List ExtInput)
    (e : DecodeError), engineTurn s ∧ s.pc = .at q n ∧ microAt q n = some .algorithm ∧ s.extIn = .request bs :: rest ∧
    decode s.cfg.op .spi bs = .error e :=
  ⟨{ running .externalFlash 16 [] [] with extIn := [.request [0x12]] }, .externalFlash, 16, [0x12], [],
    .unknownSpiRequest 0x12, rfl, rfl, rfl, rfl, rfl⟩

theorem witness_UndecodableRefused_command : ∃ (s : State) (b : Byte), engineTurn s ∧ s.pc = .at (.single b) 0 ∧
    microAt (.single b) 0 = some (.cmdByte b) ∧ ∀ c, s.cfg.op.code c ≠ b :=
  ⟨running (.single 0x14) 0 [] [], 0x14, rfl, rfl, rfl, by intro c; cases c <;> decide⟩

theorem witness_StatusDecodeExact : ∃ w v : Word, w ≠ v ∧ ∀ i, i < 19 → w.getLsbD i = v.getLsbD i :=
  ⟨0x00002000, 0xFFF82000, by decide, by decide⟩

theorem witness_RegisterReadValue : (machine 0x12345678 [[0x1B, 0x28, 0x00, 0x09]]).xport.replies =
    [0x1B, 0x28, 0x00, 0x09] :: [] := rfl

theorem witness_DataWordsOnWire : ∃ s1 s2 s3 : State,
    (engineTurn s1 ∧ s1.pc = .at .writePage 5 ∧ microAt .writePage 5 = some (.op .addrShift)) ∧
    (engineTurn s2 ∧ s2.pc = .at .writePage 8 ∧ microAt .writePage 8 = some (.op .wordShift)) ∧
    (engineTurn s3 ∧ s3.pc = .at .loadSram 11 ∧ microAt .loadSram 11 = some (.op .checksumShift)) :=
  ⟨running .writePage 5 [] [], running .writePage 8 [] [], running .loadSram 11 [] [], ⟨rfl, rfl, rfl⟩, ⟨rfl, rfl, rfl⟩,
    rfl, rfl, rfl⟩

/-- The boundaries of a page, of the signature and of the image: bytes 0, 3, 4, 255. -/
theorem witness_PageContent : (0 : Nat) < 256 ∧ 255 < 256 ∧
    pageByte Params.sample.autobootSig sixBytes.image 0 0 3 = 0x4E ∧
    pageByte Params.sample.autobootSig sixBytes.image 0 0 4 = 0x01 ∧
    pageByte Params.sample.autobootSig sixBytes.image 0 0 5 = 0x02 ∧
    pageByte Params.sample.autobootSig sixBytes.image 0 0 6 = 0xFF := by decide

/-- A command's step and its latch clocks. -/
theorem witness_CommandsComplete : microAt .eraseAttempt 1 = some (.cmd .flashErase) ∧
    engineTurn (running .eraseAttempt 2 [] []) ∧ (running .eraseAttempt 2 [] []).pc = .at .eraseAttempt 2 ∧
    microAt .eraseAttempt 2 = some .latch := ⟨rfl, rfl, rfl, rfl⟩

theorem witness_ReadIdCode : (machine 0x12345678 [[0x1B, 0x28, 0x00, 0x09]]).xport.replies =
    [0x1B, 0x28, 0x00, 0x09] :: [] := rfl

theorem witness_RefusedRequests : (machine 0x12345678 []).mode = none ∧ (2 : Word).toNat ≠ ([0x00] : List Byte).length := by
  decide

/-- Each of the four codes is the first failing check of some machine; the last check too. -/
theorem witness_SetupCheckFails :
    (setupChecks { machine 0x12345678 [] with mcuImgSel := true } .volatile false).find? (·.1) =
      some (true, .configMcuDevice) ∧
    (setupChecks { machine 0x12345678 [] with cfg := { tp with fileTypeRuled := [(([], .volatile, false), false)] } }
      .volatile false).find? (·.1) = some (true, .configFiletype) ∧
    (setupChecks { machine 0x0000001B [] with bs := sixBytes } .nonVolatile false).find? (·.1) =
      some (true, .configFlashUnsupported) ∧
    (setupChecks { machine 0x12345678 [] with bs := { sixBytes with image := ⟨Memory.empty, 12⟩ } } .volatile
      false).find? (·.1) = some (true, .configImage) ∧
    (setupChecks { machine 0x0100981B [] with bs := sixBytes, mcuImgSel := true } .volatile false).find? (·.1) =
      some (true, .configImage) := by decide

theorem witness_SetupCheckFails_state : ∃ (s : State) (m : ProgMode) (b : Bool) (c : Code), s.mode = some m ∧
    (setupChecks s m (s.extSel || s.var.extFlashForced)).find? (fun r => r.1) = some (b, c) :=
  ⟨{ machine 0x12345678 [] with mode := some .volatile }, .volatile, true, .configImage, rfl, by decide⟩

/-- Each of the three paths. -/
theorem witness_ProgramStartsPath :
    (∀ r ∈ setupChecks { machine 0x12345678 [] with mode := some .volatile, bs := sixBytes } .volatile false,
      r.1 = false) ∧
    (∀ r ∈ setupChecks { machine 0x12345678 [] with mode := some .nonVolatile, bs := sixBytes } .nonVolatile false,
      r.1 = false) ∧
    (∀ r ∈ setupChecks { machine 0x0000081B [] with mode := some .nonVolatile, bs := sixBytes } .nonVolatile true,
      r.1 = false) := by decide

theorem witness_ProgramStartsPath_state : ∃ (s : State) (m : ProgMode), s.mode = some m ∧
    ∀ r ∈ setupChecks s m (s.extSel || s.var.extFlashForced), r.1 = false :=
  ⟨running .enable 0 [] [], .volatile, rfl, by decide⟩

theorem witness_TransferByEncodingA : (machine 0x12345678 []).var.spiEncoding = .encA ∧ lengthsAgree none (some 1) ∧
    lengthsAgree (some [0, 0]) (some 2) ∧ lengthsAgree (some []) none :=
  ⟨rfl, by simp [lengthsAgree], by simp [lengthsAgree], by simp [lengthsAgree]⟩

/-- A read of one byte: the first and the last of its bits. -/
theorem witness_ReadBackByEncodingA : (machine 0x12345678 []).var.spiEncoding = .encA ∧ lengthsAgree none (some 1) ∧
    (0 : Nat) < (1 : Word).toNat ∧ (0 : Nat) < 8 ∧ 7 < 8 := ⟨rfl, by simp [lengthsAgree], by decide, by decide, by decide⟩

theorem witness_TransferByEncodingB : (machine 0x0000001B []).var.spiEncoding = .encB ∧ lengthsAgree none (some 3) ∧
    lengthsAgree (some [0x12, 0x34]) none ∧ (0 : Nat) < 8 ∧ 7 < 8 :=
  ⟨rfl, by simp [lengthsAgree], by simp [lengthsAgree], by decide, by decide⟩

theorem witness_BoundaryScanByte : Params.sample.pinmapDefault.distinct = true ∧
    ∃ i : Fin 8, i ∉ [Params.sample.pinmapDefault.sck, Params.sample.pinmapDefault.cs, Params.sample.pinmapDefault.di,
      Params.sample.pinmapDefault.dout, Params.sample.pinmapDefault.msk] := ⟨by decide, 0, by decide⟩

/-- By each encoding: answers whose first transaction does not match and whose second does. -/
def polling : State := machine 0x0000001B [[0, 0x00, 0x01], [0, 0x00, 0x00]]
def pollingA : State := machine 0x12345678 (List.replicate 16 [0xFF] ++ List.replicate 16 [0x00])

theorem polled_answers : polled polling 0 = 0x01 ∧ polled polling 1 = 0x00 ∧ polled pollingA 0 = 0xFF ∧
    polled pollingA 1 = 0x00 := by decide

/-- A first match at the bound itself, after one transaction without a match; by both encodings. -/
theorem witness_WaitUntil_success : (2 : Word) ≠ 0 ∧ 1 ≤ 2 ∧ 2 ≤ (2 : Word).toNat ∧
    ∀ s ∈ [polling, pollingA], (∀ j, j + 1 < 2 → polled s j &&& 0x01 ≠ 0x00) ∧
      (polled s (2 - 1) &&& 0x01 = 0x00 ∨ 2 = (2 : Word).toNat) := by
  refine ⟨by decide, by decide, by decide, ?_⟩
  have h := polled_answers
  intro s hs
  refine ⟨?_, .inr (by decide)⟩
  intro j hj
  obtain rfl : j = 0 := by omega
  simp only [List.mem_cons, List.not_mem_nil, or_false] at hs
  obtain rfl | rfl := hs
  · rw [h.1]; decide
  · rw [h.2.2.1]; decide

/-- No match within a bound of one. -/
theorem witness_WaitUntil_timeout : (1 : Word) ≠ 0 ∧ 1 ≤ (1 : Word).toNat ∧ (∀ j, j + 1 < 1 → polled polling j &&& 0x01 ≠ 0x00) ∧
    1 = (1 : Word).toNat ∧ polled polling (1 - 1) &&& 0x01 ≠ 0x00 := by
  refine ⟨by decide, by decide, fun j h => by omega, by decide, ?_⟩
  rw [show (1 - 1 : Nat) = 0 from rfl, polled_answers.1]; decide

/-- A match at read 3 = POLL_MAX. -/
theorem witness_PollMatches : ∃ s : State, s.pc = .at .enable 3 ∧ microAt .enable 3 = some (.cmd .readStatus) ∧
    microAt .enable 4 = some .latch ∧ microAt .enable 5 = some (.op .readSt) ∧
    microAt .enable 6 = some (.ctl (.pollNext 0x80 0x80 .enableTimeout 3)) ∧ s.pollCnt = 0 ∧
    s.xport.replies = (([0, 0] : List Word) ++ [0x80]).map leBytes ++ [] ∧ (∀ v ∈ ([0, 0] : List Word), v &&& 0x80 ≠ 0x80) ∧
    (0x80 : Word) &&& 0x80 = 0x80 ∧ ([0, 0] : List Word).length + 1 ≤ s.cfg.pollMax.toNat :=
  ⟨running .enable 3 [] [leBytes 0, leBytes 0, leBytes 0x80], rfl, rfl, rfl, rfl, rfl, rfl, rfl, by simp, by decide,
    by decide⟩

theorem witness_PollTimesOut : ∃ s : State, s.pc = .at .disable 5 ∧ microAt .disable 5 = some (.cmd .readStatus) ∧
    microAt .disable 6 = some .latch ∧ microAt .disable 7 = some (.op .readSt) ∧
    microAt .disable 8 = some (.ctl (.pollNext 0x80 0 .disableTimeout 5)) ∧ s.pollCnt = 0 ∧
    s.xport.replies = (([0x80, 0x80] : List Word) ++ [0x80]).map leBytes ++ [] ∧
    (∀ v ∈ ([0x80, 0x80] : List Word) ++ [0x80], v &&& 0x80 ≠ 0) ∧
    ([0x80, 0x80] : List Word).length + 1 = s.cfg.pollMax.toNat ∧ ∀ f ∈ s.callers, f.passFatal = true :=
  ⟨running .disable 5 [⟨.eraseSram, 15, true⟩, eraseCaller] [leBytes 0x80, leBytes 0x80, leBytes 0x80],
    rfl, rfl, rfl, rfl, rfl, rfl, rfl, by simp, by decide, by decide⟩

theorem witness_OutcomesPropagate : ∃ s1 s2 s3 s4 : State,
    (SeqOutcome.ok.isFatal = false ∧ s1.callers = [eraseCaller]) ∧ s2.callers = [] ∧
    ((SeqOutcome.fatal .enableTimeout 0).isFatal = true ∧
      s3.callers = [] ++ ⟨.programVolatile, 4, false⟩ :: [] ∧ (⟨.programVolatile, 4, false⟩ : Frame).passFatal = false) ∧
    (∀ f ∈ s4.callers, f.passFatal = true) :=
  ⟨running .eraseSram 18 [eraseCaller] [], running .programVolatile 5 [] [],
    running .enable 6 [⟨.programVolatile, 4, false⟩] [], running .eraseSram 9 [eraseCaller] [], ⟨rfl, rfl⟩, rfl,
    ⟨rfl, rfl, rfl⟩, by decide⟩

/-- The last read of an attempt of EraseFlash within ProgramFlash, with so many attempts before it. -/
def attempting (k : BitVec 7) (w : Word) : State :=
  { running .eraseAttempt 14 [⟨.eraseFlash, 7, true⟩, ⟨.programFlash, 9, true⟩] [leBytes w] with attempt := k }

/-- The three cases: DONE clear; DONE set behind the last attempt but one; DONE set behind the last. -/
theorem witness_EraseLoopExitsEarly :
    (∀ p ∈ ([(0, 0), (98, 0x2000), (99, 0x2000)] : List (BitVec 7 × Word)),
      engineTurn (attempting p.1 p.2) ∧ (attempting p.1 p.2).pc = .at .eraseAttempt 14 ∧
      (attempting p.1 p.2).callers = ⟨.eraseFlash, 7, true⟩ :: ⟨.programFlash, 9, true⟩ :: [] ∧
      (attempting p.1 p.2).answerWord = p.2) ∧
    (0 : Word).getLsbD 13 = false ∧ (0x2000 : Word).getLsbD 13 = true ∧ (98 : BitVec 7).toNat + 1 < 100 ∧
    100 ≤ (99 : BitVec 7).toNat + 1 := by
  refine ⟨?_, by decide, by decide, by decide, by decide⟩
  intro p hp
  simp only [List.mem_cons, List.not_mem_nil, or_false] at hp
  obtain rfl | rfl | rfl := hp <;> exact ⟨rfl, rfl, rfl, rfl⟩

/-- The answers of program P2, each poll matched at its first read. -/
theorem witness_EraseSramRun : ∃ s : State, s.pc = .at .eraseSram 0 ∧ s.callers = eraseCaller :: [] ∧
    1 ≤ s.cfg.pollMax.toNat ∧ s.xport.replies = [leBytes 0x80, leBytes 0xA0, leBytes 0x20, leBytes 0x20] ++ [] ∧
    (0x80 : Word) &&& 0x80 = 0x80 ∧ (0xA0 : Word) &&& 0x20 = 0x20 ∧ (0x20 : Word) &&& 0x80 = 0 :=
  ⟨running .eraseSram 0 [eraseCaller] [leBytes 0x80, leBytes 0xA0, leBytes 0x20, leBytes 0x20], rfl, rfl, by decide, rfl,
    by decide, by decide, by decide⟩

theorem witness_StreamRun : ∃ s : State, s.pc = .at .loadSram 5 ∧ 0 < s.bs.image.bitLen / 8 ∧ 0 < s.cfg.chunkBytes :=
  ⟨running .loadSram 5 [] [], rfl, by decide, by decide⟩

/-- The answers of program P3, each poll matched at its first read. -/
theorem witness_VolatilePathRun : ∃ s : State, s.pc = .at .programVolatile 0 ∧ s.callers = [] ∧
    0 < s.bs.image.bitLen / 8 ∧ 0 < s.cfg.chunkBytes ∧ 1 ≤ s.cfg.pollMax.toNat ∧
    s.xport.replies = [leBytes 0x80, leBytes 0xA0, leBytes 0x20, leBytes 0x20, leBytes 0x80, leBytes 0x2000,
      leBytes 0x3000] ++ [] ∧
    (0x80 : Word) &&& 0x80 = 0x80 ∧ (0xA0 : Word) &&& 0x20 = 0x20 ∧ (0x20 : Word) &&& 0x80 = 0 ∧
    (0x2000 : Word) &&& 0x80 = 0 :=
  ⟨running .programVolatile 0 [] [leBytes 0x80, leBytes 0xA0, leBytes 0x20, leBytes 0x20, leBytes 0x80, leBytes 0x2000,
    leBytes 0x3000], rfl, rfl, by decide, by decide, by decide, rfl, by decide, by decide, by decide, by decide⟩

/-- From the attempt's start; and from its raw bursts. -/
theorem witness_EraseAttemptRun : ∃ s1 s2 : State,
    (s1.pc = .at .eraseAttempt 0 ∧ s1.callers = ⟨.eraseFlash, 7, true⟩ :: [] ∧ 1 ≤ s1.cfg.pollMax.toNat ∧
      s1.xport.replies = [leBytes 0x10080, leBytes 0x10000, leBytes 0x10000] ++ [] ∧
      (0x10080 : Word) &&& 0x80 = 0x80 ∧ (0x10000 : Word) &&& 0x80 = 0) ∧ s2.pc = .at .eraseAttempt 4 :=
  ⟨running .eraseAttempt 0 [⟨.eraseFlash, 7, true⟩] [leBytes 0x10080, leBytes 0x10000, leBytes 0x10000],
    running .eraseAttempt 4 [] [], ⟨rfl, rfl, by decide, rfl, by decide, by decide⟩, rfl⟩

/-- A page in hand. -/
def inPage (im : ImageSel) (k : Nat) : State :=
  let s := running .writePage 0 [⟨.writeImage, 2, true⟩] [leBytes 0x80]
  { s with page := BitVec.ofNat 32 k, fsm := { s.fsm with image := im, index := k } }

/-- The first page of the main image, whose address is 0, and of the firmware image, whose address is not. -/
theorem witness_PageRun : ∀ s ∈ [inPage .main 0, inPage .mcu 0], s.pc = .at .writePage 0 ∧
    s.callers = ⟨.writeImage, 2, true⟩ :: [] ∧ s.page = BitVec.ofNat 32 s.fsm.index ∧ 1 ≤ s.cfg.pollMax.toNat ∧
    s.xport.replies = leBytes 0x80 :: [] ∧ (0x80 : Word) &&& 0x80 = 0x80 := by
  intro s hs
  simp only [List.mem_cons, List.not_mem_nil, or_false] at hs
  obtain rfl | rfl := hs <;> exact ⟨rfl, rfl, rfl, by decide, rfl, by decide⟩

/-- The answers to the write of a one-page image. -/
theorem onePage (s : State) (i : ImageSel) (h : pages s i = 1) :
    writeAnswers s i [0x80] 0 0x2000 [leBytes 0x80, leBytes 0, leBytes 0x2000] :=
  ⟨rfl, h.symm, by simp, by decide⟩

theorem witness_WriteImageRun : ∃ s : State, s.pc = .at .writeImage 0 ∧ s.callers = ⟨.programFlash, 12, true⟩ :: [] ∧
    0 < (imageOf s s.fsm.image).bitLen / 8 ∧ 1 ≤ s.cfg.pollMax.toNat ∧
    writeAnswers s s.fsm.image [0x80] 0 0x2000 [leBytes 0x80, leBytes 0, leBytes 0x2000] ∧
    s.xport.replies = [leBytes 0x80, leBytes 0, leBytes 0x2000] ++ [] :=
  ⟨running .writeImage 0 [⟨.programFlash, 12, true⟩] [leBytes 0x80, leBytes 0, leBytes 0x2000], rfl, rfl, by decide,
    by decide, onePage _ _ rfl, rfl⟩

theorem witness_EpilogueRun : ∃ s : State, s.pc = .at .imageEpilogue 0 ∧ s.callers = ⟨.writeImage, 4, true⟩ :: [] ∧
    1 ≤ s.cfg.pollMax.toNat ∧ s.xport.replies = [leBytes 0, leBytes 0xF000] ++ [] ∧ (0 : Word) &&& 0x80 = 0 :=
  ⟨running .imageEpilogue 0 [⟨.writeImage, 4, true⟩] [leBytes 0, leBytes 0xF000], rfl, rfl, by decide, rfl, by decide⟩

theorem witness_ClockForDuration : ∃ s : State,
    s.xport.tap ∈ [TapState.runTestIdle, .shiftDR, .shiftIR, .pauseDR, .pauseIR] ∧ engineTurn s ∧
    s.pc = .at .writePage 9 ∧ microAt .writePage 9 = some (.op (.clkFor .word)) :=
  ⟨running .writePage 9 [] [], by decide, rfl, rfl, rfl⟩

/-- Both cases of the precondition: POR alone, and neither (P7). -/
theorem witness_ProgrammablePrecondition : ∃ s1 s2 : State,
    (s1.pc = .at .programFlash 3 ∧ s1.callers = [] ∧ s1.answerWord = 0x10000 ∧
      (0x10000 : Word) &&& (0x00001000 ||| 0x00010000) ≠ 0) ∧
    (s2.pc = .at .programFlash 3 ∧ s2.callers = [] ∧ s2.answerWord = 0x2000 ∧
      (0x2000 : Word) &&& (0x00001000 ||| 0x00010000) = 0) :=
  ⟨running .programFlash 3 [] [leBytes 0x10000], running .programFlash 3 [] [leBytes 0x2000],
    ⟨rfl, rfl, rfl, by decide⟩, ⟨rfl, rfl, rfl, by decide⟩⟩

/-- VALID clear at the erase's read, and VALID set there. -/
theorem witness_ProgramFlashOpening : ∃ s1 s2 : State,
    (∀ s ∈ [s1, s2], s.pc = .at .programFlash 0 ∧ s.callers = [] ∧ 1 ≤ s.cfg.pollMax.toNat) ∧
    (0 : Word) &&& 0x80 = 0 ∧ (0x10000 : Word) &&& (0x00001000 ||| 0x00010000) ≠ 0 ∧
    ((0x10000 : Word).getLsbD 12 = false ∧ s1.xport.replies = [leBytes 0, leBytes 0x10000, leBytes 0x10000] ++ []) ∧
    ((0x1000 : Word).getLsbD 12 = true ∧ (0x80 : Word) &&& 0x80 = 0x80 ∧ (0x20 : Word) &&& 0x20 = 0x20 ∧
      s2.xport.replies = [leBytes 0, leBytes 0x10000, leBytes 0x1000, leBytes 0x80, leBytes 0x20, leBytes 0,
        leBytes 0x10000] ++ []) :=
  ⟨running .programFlash 0 [] [leBytes 0, leBytes 0x10000, leBytes 0x10000],
    running .programFlash 0 [] [leBytes 0, leBytes 0x10000, leBytes 0x1000, leBytes 0x80, leBytes 0x20, leBytes 0,
      leBytes 0x10000],
    by
      intro s hs
      simp only [List.mem_cons, List.not_mem_nil, or_false] at hs
      obtain rfl | rfl := hs <;> exact ⟨rfl, rfl, by decide⟩,
    by decide, by decide, ⟨by decide, rfl⟩, by decide, by decide, by decide, rfl⟩

/-- The user code 0x1234 matches the tests' bitstream. -/
theorem matching (s : State) (h : s.bs.checksum = 0x1234) : checksumAnswer s 0x1234 .ok [⟨.info, .checksumOk, 0x1234⟩] :=
  ⟨fun _ => ⟨rfl, rfl⟩, fun n => absurd (.inl (by rw [h]; decide)) n⟩

/-- Both images, on the variant that may have a firmware image. -/
theorem witness_ProgramFlashEnd : ∃ s : State, s.pc = .at .programFlash 9 ∧ s.callers = [] ∧ 1 ≤ s.cfg.pollMax.toNat ∧
    0 < s.bs.image.bitLen / 8 ∧ s.mcuImgSel = true ∧ 0 < s.mcu.bitLen / 8 ∧ s.var.checksumKnown = true ∧
    writeAnswers s .main [0x80] 0 0x2000 [leBytes 0x80, leBytes 0, leBytes 0x2000] ∧
    writeAnswers s .mcu [0x80] 0 0x2000 [leBytes 0x80, leBytes 0, leBytes 0x2000] ∧
    checksumAnswer s 0x1234 .ok [⟨.info, .checksumOk, 0x1234⟩] ∧
    s.xport.replies = [leBytes 0x80, leBytes 0, leBytes 0x2000] ++
      (if s.mcuImgSel then [leBytes 0x80, leBytes 0, leBytes 0x2000] else []) ++
      (if s.var.checksumKnown then [leBytes 0x1234] else []) ++ [] :=
  ⟨{ machine 0x0100981B [leBytes 0x80, leBytes 0, leBytes 0x2000, leBytes 0x80, leBytes 0, leBytes 0x2000, leBytes 0x1234]
      with pc := .at .programFlash 9, bs := sixBytes, mcu := sixBytes.image, mcuImgSel := true }, rfl, rfl, by decide,
    by decide, rfl, by decide, by decide, onePage _ _ rfl, onePage _ _ rfl, matching _ rfl, rfl⟩

/-- S6 and V88: a match of the low half, and no match. -/
theorem witness_ChecksumCheck : ∃ s1 s2 : State,
    (s1.pc = .at .checksumCheck 0 ∧ s1.callers = ⟨.programFlash, 20, false⟩ :: [] ∧ s1.answerWord = 0x1234 ∧
      checksumAnswer s1 0x1234 .ok [⟨.info, .checksumOk, 0x1234⟩]) ∧
    (s2.pc = .at .checksumCheck 0 ∧ s2.callers = ⟨.programFlash, 20, false⟩ :: [] ∧ s2.answerWord = 0x9999 ∧
      checksumAnswer s2 0x9999 (.advisory .checksumMismatch 0x9999) [⟨.error, .checksumMismatch, 0x9999⟩]) := by
  refine ⟨running .checksumCheck 0 [⟨.programFlash, 20, false⟩] [leBytes 0x1234],
    running .checksumCheck 0 [⟨.programFlash, 20, false⟩] [leBytes 0x9999], ⟨rfl, rfl, rfl, matching _ rfl⟩, rfl, rfl, rfl,
    ?_, fun _ => ⟨rfl, rfl⟩⟩
  rintro (h | ⟨x, h, -⟩)
  · exact absurd h (by decide)
  · exact absurd h (by simp [Bitstream.headerValue, running, sixBytes])

theorem witness_ParseHex : isHexText [0x30, 0x78, 0x41] 10 ∧ ¬ (∃ v, isHexText [] v) := by
  refine ⟨⟨[0x30, 0x78], by simp, [(10, true)], by decide, by decide, by decide, by decide⟩, ?_⟩
  rintro ⟨v, pre, hp, ds, h1, h2, h3, h4⟩
  have := congrArg List.length h3
  simp only [List.length_append, List.length_map, List.length_nil] at this
  omega

/-- Both families. -/
theorem witness_ExitSequences : ∃ s1 s2 : State,
    (s1.pc = .at .externalFlash 0 ∧ s1.callers = [] ∧ 1 ≤ s1.cfg.pollMax.toNat ∧ s1.var.extExit = .finalOpcode ∧
      s1.xport.replies = [leBytes 0x80, leBytes 0x80, leBytes 0x20, leBytes 0, leBytes 0] ++ []) ∧
    (s2.pc = .at .externalFlash 0 ∧ s2.callers = [] ∧ 1 ≤ s2.cfg.pollMax.toNat ∧ s2.var.extExit = .disableNoop ∧
      s2.xport.replies = [leBytes 0x80, leBytes 0x80, leBytes 0x20, leBytes 0, leBytes 0, leBytes 0] ++ []) ∧
    (0x80 : Word) &&& 0x80 = 0x80 ∧ (0x20 : Word) &&& 0x20 = 0x20 ∧ (0 : Word) &&& 0x80 = 0 :=
  ⟨running .externalFlash 0 [] [leBytes 0x80, leBytes 0x80, leBytes 0x20, leBytes 0, leBytes 0],
    { machine 0x0000081B [leBytes 0x80, leBytes 0x80, leBytes 0x20, leBytes 0, leBytes 0, leBytes 0] with
        pc := .at .externalFlash 0 },
    ⟨rfl, rfl, by decide, by decide, rfl⟩, ⟨rfl, rfl, by decide, by decide, rfl⟩, by decide, by decide, by decide⟩

/-- The algorithm's end for each family, and the point behind the last Disable. -/
theorem witness_ResetRegardless : ∃ s1 s2 s3 : State,
    (s1.pc = .at .externalFlash 16 ∧ s1.callers = [] ∧ s1.extIn = .finish true :: [] ∧ s1.var.extExit = .finalOpcode) ∧
    (engineTurn s2 ∧ s2.pc = .at .externalFlash 16 ∧ s2.callers = [] ∧ s2.extIn = .finish false :: [] ∧
      s2.var.extExit = .disableNoop) ∧
    (s3.pc = .at .externalFlash 20 ∧ s3.callers = []) :=
  ⟨{ running .externalFlash 16 [] [] with extIn := [.finish true] },
   { machine 0x0000081B [] with pc := .at .externalFlash 16, extIn := [.finish false] },
   running .externalFlash 20 [] [], ⟨rfl, rfl, rfl, by decide⟩, ⟨rfl, rfl, rfl, rfl, by decide⟩, ⟨rfl, rfl⟩⟩

/-- Each of the six inputs can stand first while the machine is idle. -/
theorem witness_HostWrites (w : HostInput) :
    engineTurn { machine 0x12345678 [] with hostIn := [w] } ∧
    ({ machine 0x12345678 [] with hostIn := [w] } : State).pc = .idle := ⟨rfl, rfl⟩

theorem witness_SilentAlgorithmWaits : ∃ s : State, s.pc = .at .externalFlash 16 ∧
    microAt .externalFlash 16 = some .algorithm ∧ s.extIn = [] := ⟨running .externalFlash 16 [] [], rfl, rfl, rfl⟩

theorem witness_VariantKnownPoints : Params.sample.wf = true ∧
    ∀ r ∈ Params.sample.variantTable, r.1 ≠ (0x12345678 : Word) := by decide

theorem witness_Construction : (wires [[0x1B, 0x28, 0x00, 0x09]]).replies = [0x1B, 0x28, 0x00, 0x09] :: [] := rfl

/-- A read up to the image's end, and one past it; two canonical memories with the same bytes. -/
theorem witness_ImageMemory : 2 + 4 ≤ sixBytes.image.bitLen / 8 ∧ sixBytes.image.bitLen / 8 < 3 + 4 ∧
    (Memory.ofBytes [0, 5]).wf = true ∧ ((Memory.empty.write 1 5).wf = true) ∧
    Memory.ofBytes [0, 5] = Memory.empty.write 1 5 := by decide

/-- A machine within the volatile path at the last status read of EraseSRAM, with every invariant and a next state. -/
def midRun : State :=
  { running .eraseSram 17 [eraseCaller] [leBytes 0x20] with
      st := some 0x80, device := [.enterEditMode, .startSramErase, .leaveEditMode],
      xport := { wires [leBytes 0x20] with ir := 0x41, issued := [.ir 0x41, .clk 5], performed := 2 } }

theorem midRun_steps : ∃ t, step midRun = .next t ∧ t.st = some 0x20 ∧ t.st ≠ midRun.st := ⟨_, rfl, by decide, by decide⟩

theorem witness_ControlKept : midRun.controlOk = true ∧ midRun.atRest = true ∧ ∃ t, step midRun = .next t :=
  ⟨by decide, by decide, _, rfl⟩
theorem witness_WireKept : midRun.controlOk = true ∧ midRun.wireOk = true ∧ ∃ t, step midRun = .next t :=
  ⟨by decide, by decide, _, rfl⟩
theorem witness_ImagesKept : midRun.memOk = true ∧ (∃ t, step midRun = .next t) ∧ midRun.pc ≠ .idle :=
  ⟨by decide, ⟨_, rfl⟩, by decide⟩
theorem witness_RunKept : midRun.runOk = true ∧ ∃ t, step midRun = .next t := ⟨by decide, _, rfl⟩

/-- A step; and a move at an entry that uses ST. -/
theorem witness_StatusKnownKept : ∃ s : State,
    (midRun.controlOk = true ∧ midRun.statusOk = true ∧ ∃ t, step midRun = .next t) ∧
    (s.controlOk = true ∧ s.statusOk = true ∧ (∃ t, s.moved? = some t) ∧ s.pc = .at .eraseSram 18 ∧
      microAt .eraseSram 18 = some (.ctl (.retDone false .sramEraseDoneSet)) ∧
      (Ctl.retDone false .sramEraseDoneSet).usesStatus = true) :=
  ⟨{ running .eraseSram 18 [eraseCaller] [] with st := some 0 }, ⟨by decide, by decide, _, rfl⟩, by decide, by decide,
    ⟨_, rfl⟩, rfl, rfl, rfl⟩

theorem witness_EditGateKept : midRun.controlOk = true ∧ midRun.gateOk = true ∧ ∃ t, step midRun = .next t :=
  ⟨by decide, by decide, _, rfl⟩
theorem witness_InstructionRegisterKept : midRun.controlOk = true ∧ midRun.irOk = true ∧
    ∃ t, step midRun = .next t ∧ t.st ≠ midRun.st := ⟨by decide, by decide, _, rfl, by decide⟩

/-- Behind the first step of ProgramFlash at 2.5 MHz, and at a clocked wait inside its erase. -/
theorem witness_FrequencyKept : ∃ s1 s2 : State,
    (s1.controlOk = true ∧ s1.freqOk = true ∧ s1.root = some .programFlash ∧ ∃ t, step s1 = .next t) ∧
    (engineTurn s2 ∧ s2.controlOk = true ∧ s2.freqOk = true ∧ s2.pc = .at .eraseAttempt 10 ∧
      microAt .eraseAttempt 10 = some (.op (.clkFor .eraseHold))) :=
  ⟨running .programFlash 2 [] [], running .eraseAttempt 10 [⟨.eraseFlash, 7, true⟩, ⟨.programFlash, 9, true⟩] [],
    ⟨by decide, by decide, by decide, _, rfl⟩, ⟨rfl, by decide, by decide, rfl, rfl⟩⟩

theorem witness_AppendOnly : ∃ t, step midRun = .next t := ⟨_, rfl⟩
theorem witness_ConfigurationKept : midRun.controlOk = true ∧ (∃ t, step midRun = .next t) ∧ midRun.pc ≠ .idle :=
  ⟨by decide, ⟨_, rfl⟩, by decide⟩

/-- A step that ends an operation: the last clocks of the reload pair; and one that ends a program request at IDLE. -/
theorem witness_ResultAtEnd : ∃ s1 t1 s2 t2 : State,
    (s1.controlOk = true ∧ step s1 = .next t1 ∧ t1.result ≠ s1.result ∧ s1.pc ≠ .idle ∧ t1.pc = .idle) ∧
    (s2.controlOk = true ∧ step s2 = .next t2 ∧ t2.result ≠ s2.result ∧ s2.pc = .idle) :=
  ⟨running .resetDevice 3 [] [], _,
    { machine 0x12345678 [] with mode := some .volatile, mcuImgSel := true, hostIn := [.request [1, 0, 0, 0, 0, 0]] }, _,
    ⟨by decide, rfl, by decide, by decide, by decide⟩, by decide, rfl, by decide, rfl⟩

/-- An operation in the queue; an empty queue; a captured shift; a flush; a Sleep behind an operation still in the queue. -/
theorem witness_TransportSteps : ∃ q e s t u w : State,
    q.xport.queue ≠ [] ∧ e.xport.queue = [] ∧
    (w.pc = .at .imageEpilogue 6 ∧ microAt .imageEpilogue 6 = some (.op (.sleep 500000)) ∧ w.xport.queue = [.clk 5]) ∧
    (step midRun = .next t ∧ t.xport.issued ≠ midRun.xport.issued ∧
      ∃ n out e, t.xport.issued.getLast? = some (.dr n out e true)) ∧
    (step s = .next u ∧ u.xport.issued ≠ s.xport.issued ∧ u.xport.issued.getLast? = some .flush) :=
  ⟨{ machine 0x12345678 [] with xport := { wires [] with issued := [.flush] } }, machine 0x12345678 [],
    running .imageEpilogue 5 [⟨.writeImage, 4, true⟩] [], _, _,
    { running .imageEpilogue 6 [⟨.writeImage, 4, true⟩] [] with xport := { wires [] with issued := [.clk 5] } },
    by decide, by decide, ⟨rfl, rfl, rfl⟩,
    ⟨rfl, by decide, 32, [0xFF, 0xFF, 0xFF, 0xFF], .runTestIdle, by decide⟩, rfl, by decide, by decide⟩

end Sys2Proof.Tests
end

section
/-! PROOFS. What one step appends: the operation it issues, with what that operation leaves at the transport, and its entries of
LOG and of the device effects; and the transport's own turn (00_scope.md R10, 10_state.md R53, 41_command_channel.md R89 to R90,
R171). -/

namespace Sys2Proof.Machine

open Sys2Proof.Claims

/-! The queue and the transport's turn (R10, R53). -/

theorem Transport.queue_eq_nil_iff (x : Transport) : x.queue = [] ↔ x.queued.length ≤ x.performed :=
  List.drop_eq_nil_iff

/-- With an operation in the queue the free choice of log 6 alone says who moves. -/
theorem Transport.moves_of_queue_ne_nil {x : Transport} (h : x.queue ≠ []) :
    x.moves = Config.xportMoves x.issued.length x.performed := by
  have hlt : x.performed < x.queued.length := Nat.not_le.mp (mt x.queue_eq_nil_iff.mpr h)
  simp [Transport.moves, hlt]

theorem Transport.moves_of_queue_eq_nil {x : Transport} (h : x.queue = []) : x.moves = false :=
  Transport.moves_of_drained (x.queue_eq_nil_iff.mp h)

/-! One operation issued, and performed with its queue when it is a barrier (R53, R90). -/

/-- Whether an operation returns only behind the whole queue: a flush, or a shift whose captured bits are used. -/
def TOp.isBarrier : TOp → Bool
  | .flush | .dr _ _ _ true => true
  | _ => false

/-- The transport behind the step that issues an operation. -/
def Transport.afterIssue (x : Transport) (op : TOp) : Transport :=
  if op.isBarrier then (afterOp x op).drainAll else afterOp x op

@[simp] theorem Transport.afterIssue_issued (x : Transport) (op : TOp) : (x.afterIssue op).issued = x.issued ++ [op] := by
  unfold Transport.afterIssue
  split <;> rfl

/-- A barrier leaves everything performed. -/
theorem Transport.afterIssue_performed {op : TOp} (h : op.isBarrier = true) (x : Transport) :
    (x.afterIssue op).performed = (x.afterIssue op).queued.length := by
  simp [Transport.afterIssue, h]

/-- A transport operation of a sequence issues one operation, or none where a clocked wait counts to 0 (R170, R178). -/
theorem State.perform_xport {s t : State} {w : Wire} (h : s.perform w = .ok t) :
    t.xport = s.xport ∨ ∃ op, t.xport = s.xport.afterIssue op := by
  cases w with
  | clkFor d =>
    cases h
    rw [State.clockFor_eq]
    by_cases h0 : clockCount s.xport.freq (s.delayUs d) = 0
    · exact .inl (by simp [h0])
    · exact .inr ⟨.clk _, by simp only [State.onXport_xport, h0, if_false]; rfl⟩
  | chunkShift =>
    rcases s.chunkShift_cases with ⟨_, a, k, e⟩ | ⟨out, _, e⟩
    · rw [State.perform, e] at h
      cases h
    · rw [State.perform, e] at h
      cases h
      exact .inr ⟨.dr _ _ _ false, rfl⟩
  | bscanHigh =>
    cases h
    rcases hrd : s.fsm.spi.rd with _ | _
    · exact .inr ⟨.dr _ _ _ false, by rw [State.clockHigh_write hrd]; rfl⟩
    · exact .inr ⟨.dr _ _ _ true, by rw [State.clockHigh_read hrd]; rfl⟩
  | encBShift =>
    cases h
    rcases hrd : s.fsm.spi.rd with _ | _
    · exact .inr ⟨.dr _ _ _ false, by simp only [State.passthroughShift, hrd]; rfl⟩
    · exact .inr ⟨.dr _ _ _ true, by simp only [State.passthroughShift, hrd]; rfl⟩
  | readSt | readUc | captureId | readReturn => cases h; exact .inr ⟨.dr _ _ _ true, rfl⟩
  | checksumShift | addrShift | wordShift | bscanStart | bscanLow | bscanEnd =>
    cases h; exact .inr ⟨.dr _ _ _ false, rfl⟩
  | setTap _ | holdState | encBState => cases h; exact .inr ⟨.state _, rfl⟩
  | setFreq hz => cases h; exact .inr ⟨.freq hz, rfl⟩
  | flush => cases h; exact .inr ⟨.flush, rfl⟩
  | sleep us => cases h; exact .inr ⟨.sleep us, rfl⟩
  | burst => cases h; exact .inr ⟨.clk burstWidth, rfl⟩

/-! What issues nothing and reaches no device. -/

/-- Nothing happens at the transport or the device, and LOG only grows. -/
structure Silent (s t : State) : Prop where
  log : s.log <+: t.log
  device : t.device = s.device
  xport : t.xport = s.xport

theorem Silent.refl (s : State) : Silent s s := ⟨List.prefix_rfl, rfl, rfl⟩

theorem Silent.trans {s t u : State} (h : Silent s t) (h' : Silent t u) : Silent s u :=
  ⟨h.log.trans h'.log, h'.device.trans h.device, h'.xport.trans h.xport⟩

theorem State.countWait_log_prefix (s : State) : s.log <+: s.countWait.log := by
  simp [State.countWait_eq]

/-- A move only appends to LOG (R377). -/
theorem State.move_log_prefix (s : State) (q : Seq) (n : Nat) (c : Ctl) : s.log <+: (s.move q n c).log := by
  cases c with
  | callEncoding =>
    simp only [State.move]
    split <;> exact List.prefix_rfl
  | retOk | retAcc | retRet | replyBytes => simp [State.move]
  | retDone want code => rcases s.returnByDone_cases want code with ⟨_, e⟩ | ⟨_, e⟩ <;> simp [State.move, e]
  | pollNext mask value code k =>
    rcases s.pollNext_cases q n mask value code k with ⟨_, e⟩ | ⟨_, _, e⟩ | ⟨_, _, e⟩ <;> simp [State.move, e]
  | requireProgrammable => rcases s.requireProgrammable_cases q n with ⟨_, e⟩ | ⟨_, e⟩ <;> simp [State.move, e]
  | chunkNext k | attemptNext k | burstNext k | pageNext k | wordNext k | bitNext k =>
    simp only [State.move]
    split <;> exact List.prefix_rfl
  | checksumEnd => rcases s.checksumEnd_cases with ⟨_, e⟩ | ⟨_, e⟩ <;> simp [State.move, e]
  | warnVerify => cases h : s.verifyReq <;> simp [State.move, h]
  | warnChecksumSkipped => simp [State.move]
  | extReturn => rcases s.externalEnd_cases with ⟨_, e⟩ | ⟨_, _, e⟩ | ⟨_, _, e⟩ <;> simp [State.move, e]
  | waitNext k =>
    rcases s.waitNext_cases q k with ⟨_, e⟩ | ⟨_, _, e⟩ | ⟨_, _, e⟩ <;> simp only [State.move, e]
    · simpa using s.countWait_log_prefix
    · exact s.countWait_log_prefix
    · simpa using s.countWait_log_prefix.trans (List.prefix_append _ _)
  | _ => exact List.prefix_rfl

theorem State.settled_silent (s : State) : Silent s s.settled where
  log := by
    refine State.settled_induct (fun t => s.log <+: t.log) ?_ List.prefix_rfl
    intro a t ha hm
    obtain ⟨q, n, _, ⟨c, _, rfl⟩ | ⟨d, _, _, rfl⟩⟩ := a.moved?_cases hm
    · exact ha.trans (a.move_log_prefix q n c)
    · exact ha
  device := s.settled_device
  xport := s.settled_xport

theorem State.advance_silent (s : State) : Silent s s.advance :=
  .trans (t := { s with pc := s.pc.next }) ⟨List.prefix_rfl, rfl, rfl⟩ (State.settled_silent _)

theorem State.start_silent (s : State) (q : Seq) : Silent s (s.start q) :=
  .trans (t := { s with pc := .at q 0, callers := [], returned := none }) ⟨List.prefix_rfl, rfl, rfl⟩
    (State.settled_silent _)

theorem State.startSpi_silent (s : State) (q : Seq) : Silent s (s.startSpi q) :=
  .trans (t := { s with pc := .at q 0, callers := ⟨.externalFlash, algorithmStep, false⟩ :: s.callers, spiReply := none })
    ⟨List.prefix_rfl, rfl, rfl⟩ (State.settled_silent _)

theorem State.logEntry_silent (s : State) (k : LogKind) (c : Code) (v : Word) : Silent s (s.logEntry k c v) :=
  ⟨List.prefix_append _ _, rfl, rfl⟩

theorem State.loadSpi_silent (s : State) (tx : List Byte) (c : SpiCall) : Silent s (s.loadSpi tx c) :=
  ⟨List.prefix_rfl, rfl, rfl⟩

/-- program issues nothing in its own step, whichever way it goes (R340, R361, R373). -/
theorem execProgram_silent {o : Word} {u : Bool} {s t : State} (h : execProgram o u s = .next t) : Silent s t := by
  have hlatch : Silent s (s.latchProgram o u) := ⟨List.prefix_rfl, rfl, rfl⟩
  rcases execProgram_cases o u s with ⟨_, e⟩ | ⟨m, _, ⟨c, _, e⟩ | ⟨_, e⟩⟩ <;>
    rw [h, Host.Outcome.next.injEq] at e <;> subst e
  · exact .trans (s.logEntry_silent ..) ⟨List.prefix_rfl, rfl, rfl⟩
  · exact hlatch.trans (.trans (State.logEntry_silent _ .error c 0) ⟨List.prefix_rfl, rfl, rfl⟩)
  · exact hlatch.trans (State.start_silent _ _)

theorem execTransfer_silent {c : Byte} {tx : Option (List Byte)} {rl : Option Word} {s t : State}
    (h : execTransfer c tx rl s = .next t) : Silent s t := by
  rcases execTransfer_cases c tx rl s with ⟨_, e⟩ | ⟨_, e⟩ <;> rw [h, Host.Outcome.next.injEq] at e <;> subst e
  · exact .trans (s.logEntry_silent ..) ⟨List.prefix_rfl, rfl, rfl⟩
  · exact (s.loadSpi_silent ..).trans (State.startSpi_silent _ _)

theorem execWaitUntil_silent {c m x : Byte} {b : Word} {v : Bool} {s t : State}
    (h : execWaitUntil c m x b v s = .next t) : Silent s t := by
  rcases execWaitUntil_cases c m x b v s with ⟨_, e⟩ | ⟨_, e⟩ <;> rw [h, Host.Outcome.next.injEq] at e <;> subst e
  · exact .trans (s.logEntry_silent ..) ⟨List.prefix_rfl, rfl, rfl⟩
  · exact (s.loadSpi_silent ..).trans (State.startSpi_silent _ _)

/-! What a step appends. -/

/-- LOG and the device effects only grow, and at most one operation is issued. -/
structure Appends (s t : State) : Prop where
  log : s.log <+: t.log
  device : s.device <+: t.device
  xport : t.xport = s.xport ∨ ∃ op, t.xport = s.xport.afterIssue op

theorem Silent.appends {s t : State} (h : Silent s t) : Appends s t :=
  ⟨h.log, h.device ▸ List.prefix_rfl, .inl h.xport⟩

theorem Silent.appendsBehind {s t u : State} (h : Silent s t) (h' : Appends t u) : Appends s u :=
  ⟨h.log.trans h'.log, h.device ▸ h'.device, h.xport ▸ h'.xport⟩

theorem Appends.thenSilent {s t u : State} (h : Appends s t) (h' : Silent t u) : Appends s u :=
  ⟨h.log.trans h'.log, h'.device ▸ h.device, h'.xport ▸ h.xport⟩

theorem State.shiftCommand_appends (s : State) (c : Cmd) (e : Option DeviceEffect) : Appends s (s.shiftCommand c e) :=
  ⟨List.prefix_rfl, List.prefix_rfl, .inr ⟨.ir _, rfl⟩⟩

/-- The latch clocks bring the command's device effect (R174). -/
theorem State.latchCommand_appends (s : State) : Appends s s.latchCommand :=
  ⟨List.prefix_rfl, List.prefix_append _ _, .inr ⟨.clk latchClocks, rfl⟩⟩

theorem State.perform_appends {s t : State} {w : Wire} (h : s.perform w = .ok t) : Appends s t := by
  obtain ⟨hlog, hdevice⟩ : t.log = s.log ∧ t.device = s.device := by
    cases State.perform_ok h with
    | readSt ht | readUc ht | readReturn ht | captureId ht | spiRead _ _ ht | quiet _ ht => rw [ht]; exact ⟨rfl, rfl⟩
  exact ⟨hlog ▸ List.prefix_rfl, hdevice ▸ List.prefix_rfl, State.perform_xport h⟩

/-- A request issues nothing in its own step; a command issues its IR shift. -/
theorem exec_appends {i : Instr} {s t : State} (h : exec i s = .next t) : Appends s t := by
  cases i with
  | program o u => exact (execProgram_silent h).appends
  | reset | readIdCode | readStatusRegister => cases h; exact (s.start_silent _).appends
  | transfer c tx rl => exact (execTransfer_silent h).appends
  | waitUntil c m x b v => exact (execWaitUntil_silent h).appends
  | _ => cases h; exact s.shiftCommand_appends _ _

theorem State.popHost_silent (s : State) : Silent s s.popHost := ⟨List.prefix_rfl, rfl, rfl⟩

theorem State.popExt_silent (s : State) : Silent s s.popExt := ⟨List.prefix_rfl, rfl, rfl⟩

theorem State.hostWrites_silent (s : State) (w : HostInput) : Silent s (s.hostWrites w) := by
  cases w with
  | setMcuImg im => cases im <;> exact ⟨List.prefix_rfl, rfl, rfl⟩
  | _ => exact ⟨List.prefix_rfl, rfl, rfl⟩

theorem State.endAlgorithm_silent (s : State) (ok : Bool) : Silent s (s.endAlgorithm ok) :=
  .trans (t := { s.popExt with fsm := { s.fsm with algoOk := ok } }) ⟨List.prefix_rfl, rfl, rfl⟩ (State.advance_silent _)

theorem EngineTo.appends {s t : State} (h : EngineTo s t) : Appends s t := by
  cases h with
  | waits _ ht => subst ht; exact (Silent.refl _).appends
  | hostWrite w _ _ _ _ ht => subst ht; exact (s.popHost_silent.trans (State.hostWrites_silent _ w)).appends
  | hostRequest _ _ _ _ _ _ _ ht => exact s.popHost_silent.appendsBehind (exec_appends ht)
  | command q n c _ _ ht =>
    subst ht
    exact Silent.appendsBehind (t := { s with pc := .at q (n + 1) }) ⟨List.prefix_rfl, rfl, rfl⟩
      (State.shiftCommand_appends _ c _)
  | latch _ _ _ _ ht => subst ht; exact s.latchCommand_appends.thenSilent (State.advance_silent _)
  | wire _ _ _ u _ _ hu ht => subst ht; exact (State.perform_appends hu).thenSilent u.advance_silent
  | spiRequest _ _ _ _ _ _ _ _ _ _ ht => exact s.popExt_silent.appendsBehind (exec_appends ht)
  | algorithmEnd _ _ ok _ _ _ _ ht => subst ht; exact (s.endAlgorithm_silent ok).appends
  | unsettled _ _ _ _ _ ht => subst ht; exact s.settled_silent.appends

/-- A step of the machine is the transport's, or appends what the engine's step does. -/
theorem step_performs_or_appends {s t : State} (h : step s = .next t) :
    t = s.onXport Transport.perform ∨ Appends s t := by
  rcases step_next h with ⟨_, ht⟩ | ⟨_, he⟩
  · exact .inl ht
  · exact .inr he.appends

/-- Behind a step whose operation is a barrier everything issued is performed (R53, R90). -/
theorem step_barrier_drains {s t : State} {op : TOp} (h : step s = .next t) (hi : t.xport.issued ≠ s.xport.issued)
    (hlast : t.xport.issued.getLast? = some op) (hop : op.isBarrier = true) :
    t.xport.performed = t.xport.queued.length := by
  rcases step_performs_or_appends h with rfl | ha
  · exact absurd rfl hi
  · rcases ha.xport with hx | ⟨op', hx⟩
    · exact absurd (congrArg Transport.issued hx) hi
    · obtain rfl : op' = op := by simpa [hx] using hlast
      rw [hx]
      exact Transport.afterIssue_performed hop s.xport

/-- A Sleep's step does nothing at the transport but issue it (R171, R404). -/
theorem engineStep_sleep {s : State} {q : Seq} {n : Nat} {us : Word} (hpc : s.pc = .at q n)
    (hm : microAt q n = some (.op (.sleep us))) :
    ∃ t, engineStep s = .next t ∧ t.xport = s.xport.sleep us :=
  ⟨_, engineStep_wire hpc hm rfl, (State.advance_silent _).xport⟩

/-- Settles O56: each step is the transport's, which appends nothing, or the engine's, by cases on what it did. -/
theorem appendOnly : Obligations.AppendOnly := by
  intro s t h
  rcases step_performs_or_appends h with rfl | ha
  · exact ⟨List.prefix_rfl, List.prefix_rfl, .inl rfl⟩
  · refine ⟨ha.log, ha.device, ?_⟩
    rcases ha.xport with hx | ⟨op, hx⟩
    · exact .inl (by rw [hx])
    · exact .inr ⟨op, by rw [hx, Transport.afterIssue_issued]⟩

/-- Settles O59, clause by clause: the transport's turn, the engine's turn, the barriers, the Sleep's step, and that the queue
holds no Sleep. -/
theorem transportSteps : Obligations.TransportSteps := by
  refine ⟨?_, ?_, ?_, ?_, Transport.sleep_not_mem_queue⟩
  · intro s hq
    simp only [step, Transport.moves_of_queue_ne_nil hq, State.onXport_perform]
  · intro s hq
    have hmoves := Transport.moves_of_queue_eq_nil hq
    exact ⟨hmoves, step_of_engine hmoves⟩
  · intro s t h hi hlast
    have hdrained : t.xport.performed = t.xport.queued.length := by
      rcases hlast with hl | ⟨n, out, e, hl⟩
      · exact step_barrier_drains h hi hl rfl
      · exact step_barrier_drains h hi hl rfl
    exact ⟨t.xport.queue_eq_nil_iff.mpr hdrained.ge, hdrained⟩
  · intro s q n us hpc hm
    obtain ⟨t, ht, hx⟩ := engineStep_sleep hpc hm
    exact ⟨t, ht, hx, by rw [hx, Transport.sleep_queue]⟩

end Sys2Proof.Machine
end

section
/-! PROOFS. The control of the sequencer: what the entries of the hardwired program lead to (R33, R34), what one step does to
the step pointer, the callers and ST, and that every step keeps the control legal and at rest (R371) and ST behind a status
read (R54). -/

namespace Sys2Proof.Machine

/-! The entries of the hardwired program (R33). -/

/-- A test holds of every entry of a sequence, with the entry's number. -/
def romAll (p : Nat → Micro → Bool) (q : Seq) : Bool := (rom q).zipIdx.all fun e => p e.2 e.1

theorem romAll_at {p : Nat → Micro → Bool} {q : Seq} {n : Nat} {m : Micro} (h : romAll p q = true)
    (hm : microAt q n = some m) : p n m = true :=
  List.all_eq_true.mp h (m, n) (List.mem_zipIdx_iff_getElem?.mpr hm)

/-- The number of calls above a sequence, at most (R371). -/
def Seq.depth : Seq → Nat
  | .enable | .disable => 3
  | .eraseSram | .eraseAttempt | .writePage | .imageEpilogue | .transferA | .transferB => 2
  | .loadSram | .eraseFlash | .writeImage | .checksumCheck | .resetDevice | .spiTransfer | .spiWait => 1
  | _ => 0

/-- The entries behind this one are entries of their sequences: the next one of its own, where it is no move or a call, and
each target of a move. -/
def Micro.leadsInside (q : Seq) (n : Nat) : Micro → Bool
  | .ctl c => (c.targets q n).all (fun e => decide (e.2 < (rom e.1).length))
      && (!c.calls || decide (n + 1 < (rom q).length))
  | _ => decide (n + 1 < (rom q).length)

theorem rom_leadsInside (q : Seq) : romAll (fun n m => m.leadsInside q n) q = true := by
  cases q with
  | single b => rfl
  | _ => decide

/-- A call goes to a deeper sequence. -/
def Micro.callsDeeper (q : Seq) (n : Nat) : Micro → Bool
  | .ctl c => !c.calls || (c.targets q n).all fun e => decide (q.depth < e.1.depth)
  | _ => true

theorem rom_callsDeeper (q : Seq) : romAll (fun n m => m.callsDeeper q n) q = true := by
  cases q with
  | single b => rfl
  | _ => decide

/-- No move passes over a status read, and a move that uses ST stands behind one. -/
def Micro.keepsStatus (q : Seq) (n : Nat) : Micro → Bool
  | .ctl c => (c.targets q n).all (fun e => !stKnown e.1 e.2 || stKnown q n) && (!c.usesStatus || stKnown q n)
  | _ => true

theorem rom_keepsStatus (q : Seq) : romAll (fun n m => m.keepsStatus q n) q = true := by
  cases q with
  | single b => rfl
  | _ => decide

/-- A command's latch clocks stand behind it (R172), the algorithm's step in ExternalFlash (R290), and construction's
capture in no other sequence (R391). -/
def Micro.inPlace (q : Seq) (n : Nat) : Micro → Bool
  | .cmd _ | .cmdByte _ => microAt q (n + 1) == some .latch
  | .algorithm => q == .externalFlash && n == algorithmStep
  | .op .captureId => q == .construct
  | _ => true

theorem rom_inPlace (q : Seq) : romAll (fun n m => m.inPlace q n) q = true := by
  cases q with
  | single b => rfl
  | _ => decide

theorem rom_pos (q : Seq) : 0 < (rom q).length := by
  cases q <;> exact Nat.succ_pos _

theorem target_lt {q q' : Seq} {n k : Nat} {c : Ctl} (hm : microAt q n = some (.ctl c)) (hk : (q', k) ∈ c.targets q n) :
    k < (rom q').length := by
  have h := romAll_at (rom_leadsInside q) hm
  simp only [Micro.leadsInside, Bool.and_eq_true, List.all_eq_true, decide_eq_true_eq] at h
  exact h.1 _ hk

theorem resume_lt {q : Seq} {n : Nat} {c : Ctl} (hm : microAt q n = some (.ctl c)) (hc : c.calls = true) :
    n + 1 < (rom q).length := by
  have h := romAll_at (rom_leadsInside q) hm
  simp only [Micro.leadsInside, Bool.and_eq_true, hc, Bool.not_true, Bool.false_or, decide_eq_true_eq] at h
  exact h.2

/-- Behind an entry that is no move the sequence goes on. -/
theorem next_lt {q : Seq} {n : Nat} {m : Micro} (hm : microAt q n = some m) (hctl : ∀ c, m ≠ .ctl c) :
    n + 1 < (rom q).length := by
  have h := romAll_at (rom_leadsInside q) hm
  cases m with
  | ctl c => exact absurd rfl (hctl c)
  | _ => exact of_decide_eq_true h

theorem depth_lt_of_call {q q' : Seq} {n k : Nat} {c : Ctl} (hm : microAt q n = some (.ctl c)) (hc : c.calls = true)
    (hq : (q', k) ∈ c.targets q n) : q.depth < q'.depth := by
  have h := romAll_at (rom_callsDeeper q) hm
  simp only [Micro.callsDeeper, hc, Bool.not_true, Bool.false_or, List.all_eq_true, decide_eq_true_eq] at h
  exact h _ hq

theorem latch_after_cmd {q : Seq} {n : Nat} {c : Cmd} (hm : microAt q n = some (.cmd c)) :
    microAt q (n + 1) = some .latch :=
  eq_of_beq (romAll_at (rom_inPlace q) hm)

theorem latch_after_cmdByte {q : Seq} {n : Nat} {b : Byte} (hm : microAt q n = some (.cmdByte b)) :
    microAt q (n + 1) = some .latch :=
  eq_of_beq (romAll_at (rom_inPlace q) hm)

/-- The external algorithm runs at one step alone (R290). -/
theorem eq_of_algorithm {q : Seq} {n : Nat} (hm : microAt q n = some .algorithm) :
    q = .externalFlash ∧ n = algorithmStep := by
  have h := romAll_at (rom_inPlace q) hm
  simpa only [Micro.inPlace, Bool.and_eq_true, beq_iff_eq] using h

/-- ID is captured in construction alone (R35, R391). -/
theorem eq_of_captureId {q : Seq} {n : Nat} (hm : microAt q n = some (.op .captureId)) : q = .construct :=
  eq_of_beq (romAll_at (rom_inPlace q) hm)

/-! Status reads in a sequence (R54). -/

@[simp] theorem stKnown_zero (q : Seq) : stKnown q 0 = false := rfl

/-- A step other than a status read leaves no more known of ST behind it than before it. -/
theorem stKnown_succ {q : Seq} {n : Nat} {m : Micro} (hm : microAt q n = some m) (hst : m ≠ .op .readSt) :
    stKnown q (n + 1) = stKnown q n := by
  have hm' : (rom q)[n]? = some m := hm
  simp [stKnown, List.take_add_one, hm', hst]

theorem stKnown_of_target {q q' : Seq} {n k : Nat} {c : Ctl} (hm : microAt q n = some (.ctl c))
    (hk : (q', k) ∈ c.targets q n) (h : stKnown q' k = true) : stKnown q n = true := by
  have hs := romAll_at (rom_keepsStatus q) hm
  simp only [Micro.keepsStatus, Bool.and_eq_true, List.all_eq_true] at hs
  simpa [h] using hs.1 _ hk

theorem stKnown_of_usesStatus {q : Seq} {n : Nat} {c : Ctl} (hm : microAt q n = some (.ctl c))
    (hu : c.usesStatus = true) : stKnown q n = true := by
  have hs := romAll_at (rom_keepsStatus q) hm
  simp only [Micro.keepsStatus, Bool.and_eq_true, hu, Bool.not_true, Bool.false_or] at hs
  exact hs.2

/-! Chains of callers (R371). -/

theorem State.controlOk_idle {s : State} (h : s.pc = .idle) : s.controlOk = true ↔ s.callers = [] := by
  simp [State.controlOk, h]

theorem State.controlOk_at {s : State} {q : Seq} {n : Nat} (h : s.pc = .at q n) :
    s.controlOk = true ↔ n < (rom q).length ∧ chainOk q s.callers = true := by
  simp [State.controlOk, h]

theorem chainOk_cons {q : Seq} {f : Frame} {fs : List Frame} :
    chainOk q (f :: fs) = true ↔ f.callsSeq q = true ∧ chainOk f.seq fs = true := by
  simp [chainOk]

theorem isEncoding_iff {q : Seq} : q.isEncoding = true ↔ q = .transferA ∨ q = .transferB := by
  cases q <;> simp [Seq.isEncoding]

/-- What a frame stands behind: a call of the sequence, or the request of the external algorithm that started it. -/
theorem Frame.callsSeq_cases {f : Frame} {q : Seq} (h : f.callsSeq q = true) :
    (f.step < (rom f.seq).length ∧
      ∃ n c, microAt f.seq n = some (.ctl c) ∧ c.calls = true ∧ (q, 0) ∈ c.targets f.seq n) ∨
    (f = ⟨.externalFlash, algorithmStep, false⟩ ∧ q.isSpiLevel = true) := by
  simp only [Frame.callsSeq, Bool.or_eq_true, Bool.and_eq_true, decide_eq_true_eq, beq_iff_eq] at h
  rcases h with ⟨⟨_, hlt⟩, hcall | ⟨⟨hcall, henc⟩, _⟩⟩ | hspi
  · exact .inl ⟨hlt, _, _, hcall, rfl, by simp [Ctl.targets]⟩
  · exact .inl ⟨hlt, _, _, hcall, rfl, by simpa [Ctl.targets] using isEncoding_iff.mp henc⟩
  · exact .inr hspi

/-- A call leaves the frame that stands behind it. -/
theorem callsSeq_of_call {q q' : Seq} {n : Nat} {c : Ctl} {pass : Bool} (hm : microAt q n = some (.ctl c))
    (hc : c.calls = true) (hq : (q', 0) ∈ c.targets q n) (hpass : c = .call q' pass ∨ c = .callEncoding ∧ pass = true) :
    (⟨q, n + 1, pass⟩ : Frame).callsSeq q' = true := by
  have hlt := resume_lt hm hc
  rcases hpass with rfl | ⟨rfl, rfl⟩
  · simp [Frame.callsSeq, hm, hlt]
  · have henc : q'.isEncoding = true := isEncoding_iff.mpr (by simpa [Ctl.targets] using hq)
    simp [Frame.callsSeq, hm, hlt, henc]

theorem Frame.step_lt {f : Frame} {q : Seq} (h : f.callsSeq q = true) : f.step < (rom f.seq).length := by
  rcases f.callsSeq_cases h with ⟨hlt, _⟩ | ⟨rfl, _⟩
  · exact hlt
  · decide

theorem Frame.depth_lt {f : Frame} {q : Seq} (h : f.callsSeq q = true) : f.seq.depth < q.depth := by
  rcases f.callsSeq_cases h with ⟨_, n, c, hm, hc, hq⟩ | ⟨rfl, hspi⟩
  · exact depth_lt_of_call hm hc hq
  · cases q with
    | spiTransfer | spiWait => decide
    | _ => cases hspi

/-- The callers are no more than the depth of the sequence. -/
theorem length_le_depth : ∀ {fs : List Frame} {q : Seq}, chainOk q fs = true → fs.length ≤ q.depth
  | [], q, _ => Nat.zero_le _
  | f :: fs, q, h => by
    obtain ⟨hf, hfs⟩ := chainOk_cons.mp h
    exact (Nat.succ_le_succ (length_le_depth hfs)).trans (f.depth_lt hf)

theorem Seq.depth_le (q : Seq) : q.depth ≤ 3 := by
  cases q with
  | single b => exact Nat.zero_le 3
  | _ => decide

/-- No legal control is in construction: no host operation starts or calls it (R391). -/
theorem ne_construct {q : Seq} {fs : List Frame} (h : chainOk q fs = true) : q ≠ .construct := by
  rintro rfl
  cases fs with
  | nil => cases h
  | cons f fs => exact absurd (f.depth_lt (chainOk_cons.mp h).1) (Nat.not_lt_zero _)

/-- Every caller resumes at an entry of its sequence, with the callers behind it a chain of it. -/
theorem chainOk_suffix {f : Frame} {fs : List Frame} : ∀ {gs : List Frame} {q : Seq}, chainOk q gs = true →
    f :: fs <:+ gs → f.step < (rom f.seq).length ∧ chainOk f.seq fs = true
  | [], _, _, hs => absurd (List.suffix_nil.mp hs) (List.cons_ne_nil f fs)
  | g :: gs, q, h, hs => by
    obtain ⟨hg, hgs⟩ := chainOk_cons.mp h
    rcases List.suffix_cons_iff.mp hs with heq | hs
    · cases heq
      exact ⟨f.step_lt hg, hgs⟩
    · exact chainOk_suffix hgs hs

/-! ST at the step pointer and at the callers (R54). -/

theorem State.statusOk_iff {s : State} : s.statusOk = true ↔
    (∀ q n, s.pc = .at q n → stKnown q n = true → s.st.isSome = true) ∧
      ∀ f ∈ s.callers, stKnown f.seq f.step = true → s.st.isSome = true := by
  have himp : ∀ a b : Bool, (!a || b) = true ↔ (a = true → b = true) := by decide
  rcases hpc : s.pc with _ | ⟨q, n⟩ <;> simp [State.statusOk, hpc, himp]

/-! A move (R33). -/

theorem State.move_controlOk {s : State} {q : Seq} {n : Nat} {c : Ctl} (hpc : s.pc = .at q n)
    (hm : microAt q n = some (.ctl c)) (h : s.controlOk = true) : (s.move q n c).controlOk = true := by
  obtain ⟨_, hchain⟩ := (State.controlOk_at hpc).mp h
  rcases s.move_to q n c with ⟨k, hc, hk, hp, hcs⟩ | ⟨q', pass, hc, hq, hp, hcs, hpass⟩ | ⟨f, fs, _, hf, hp, hcs⟩ |
    ⟨_, hp, hcs⟩
  · rw [State.controlOk_at hp, hcs]
    exact ⟨target_lt hm hk, hchain⟩
  · rw [State.controlOk_at hp, hcs]
    exact ⟨target_lt hm hq, chainOk_cons.mpr ⟨callsSeq_of_call hm hc hq hpass, hchain⟩⟩
  · rw [State.controlOk_at hp, hcs]
    exact chainOk_suffix hchain hf
  · exact (State.controlOk_idle hp).mpr hcs

theorem State.move_statusOk {s : State} {q : Seq} {n : Nat} {c : Ctl} (hpc : s.pc = .at q n)
    (hm : microAt q n = some (.ctl c)) (h : s.statusOk = true) : (s.move q n c).statusOk = true := by
  obtain ⟨hhere, hcallers⟩ := State.statusOk_iff.mp h
  rw [State.statusOk_iff, (s.move_unmoved q n c).st]
  rcases s.move_to q n c with ⟨k, hc, hk, hp, hcs⟩ | ⟨q', pass, hc, hq, hp, hcs, hpass⟩ | ⟨f, fs, _, hf, hp, hcs⟩ |
    ⟨_, hp, hcs⟩ <;> rw [hp, hcs]
  · refine ⟨?_, hcallers⟩
    rintro _ _ ⟨⟩ hk'
    exact hhere q n hpc (stKnown_of_target hm hk hk')
  · refine ⟨?_, ?_⟩
    · rintro _ _ ⟨⟩ hk'
      cases hk'
    · rintro f hf hk'
      rcases List.mem_cons.mp hf with rfl | hf
      · exact hhere q n hpc ((stKnown_succ hm (by simp)).symm.trans hk')
      · exact hcallers f hf hk'
  · refine ⟨?_, fun g hg => hcallers g (hf.mem (List.mem_cons_of_mem f hg))⟩
    rintro _ _ ⟨⟩ hk'
    exact hcallers f (hf.mem List.mem_cons_self) hk'
  · exact ⟨nofun, nofun⟩

/-- A move of the step pointer, or a clocked wait of count 0 passed over, keeps the control legal. -/
theorem State.moved?_controlOk {s t : State} (h : s.controlOk = true) (hmv : s.moved? = some t) : t.controlOk = true := by
  obtain ⟨q, n, hpc, ⟨c, hm, rfl⟩ | ⟨d, hm, _, rfl⟩⟩ := s.moved?_cases hmv
  · exact State.move_controlOk hpc hm h
  · exact (State.controlOk_at (s.goto_pc q (n + 1))).mpr ⟨next_lt hm nofun, ((State.controlOk_at hpc).mp h).2⟩

theorem State.moved?_statusOk {s t : State} (h : s.statusOk = true) (hmv : s.moved? = some t) : t.statusOk = true := by
  obtain ⟨q, n, hpc, ⟨c, hm, rfl⟩ | ⟨d, hm, _, rfl⟩⟩ := s.moved?_cases hmv
  · exact State.move_statusOk hpc hm h
  · obtain ⟨hhere, hcallers⟩ := State.statusOk_iff.mp h
    refine State.statusOk_iff.mpr ⟨?_, hcallers⟩
    rintro _ _ ⟨⟩ hk
    exact hhere q n hpc ((stKnown_succ hm (by simp)).symm.trans hk)

theorem State.settled_controlOk {s : State} (h : s.controlOk = true) : s.settled.controlOk = true :=
  State.settled_induct (fun t => t.controlOk = true) (fun _ _ => State.moved?_controlOk) h

theorem State.settled_statusOk {s : State} (h : s.statusOk = true) : s.settled.statusOk = true :=
  State.settled_induct (fun t => t.statusOk = true) (fun _ _ => State.moved?_statusOk) h

theorem State.moved?_idle {s : State} (h : s.pc = .idle) : s.moved? = none := by
  simp [State.moved?, h]

theorem State.moved?_latch {s : State} {q : Seq} {n : Nat} (hpc : s.pc = .at q n) (hm : microAt q n = some .latch) :
    s.moved? = none := by
  simp [State.moved?, hpc, hm]

theorem State.moved?_algorithm {s : State} {q : Seq} {n : Nat} (hpc : s.pc = .at q n)
    (hm : microAt q n = some .algorithm) : s.moved? = none := by
  simp [State.moved?, hpc, hm]

/-! Where a step sets the step pointer (R33, R34). -/

/-- Where one step of the engine, its host or the external algorithm sets the step pointer, before it comes to rest, and
whether it writes ST: it leaves the pointer, starts the sequence of a request, or passes a step of a sequence. -/
inductive Enters (s u : State) : Prop where
  | stays (hpc : u.pc = s.pc) (hcs : u.callers = s.callers) (hst : u.st = s.st)
  | host (q : Seq) (hq : q.isHostLevel = true) (hidle : s.pc = .idle) (hpc : u.pc = .at q 0) (hcs : u.callers = [])
      (hst : u.st = s.st)
  | spi (q : Seq) (hq : q.isSpiLevel = true) (halg : s.pc = .at .externalFlash algorithmStep) (hpc : u.pc = .at q 0)
      (hcs : u.callers = ⟨.externalFlash, algorithmStep, false⟩ :: s.callers) (hst : u.st = s.st)
  | passes (q : Seq) (n : Nat) (m : Micro) (hs : s.pc = .at q n) (hm : microAt q n = some m) (hctl : ∀ c, m ≠ .ctl c)
      (hpc : u.pc = .at q (n + 1)) (hcs : u.callers = s.callers)
      (hst : m = .op .readSt ∧ u.st.isSome = true ∨ m ≠ .op .readSt ∧ u.st = s.st)

theorem Enters.controlOk {s u : State} (h : s.controlOk = true) (he : Enters s u) : u.controlOk = true := by
  cases he with
  | stays hpc hcs _ => simpa only [State.controlOk, hpc, hcs] using h
  | host q hq _ hpc hcs _ =>
    rw [State.controlOk_at hpc, hcs]
    exact ⟨rom_pos q, hq⟩
  | spi q hq halg hpc hcs _ =>
    rw [State.controlOk_at hpc, hcs]
    refine ⟨rom_pos q, chainOk_cons.mpr ⟨?_, ((State.controlOk_at halg).mp h).2⟩⟩
    simp [Frame.callsSeq, hq]
  | passes q n m hs hm hctl hpc hcs _ =>
    rw [State.controlOk_at hpc, hcs]
    exact ⟨next_lt hm hctl, ((State.controlOk_at hs).mp h).2⟩

theorem Enters.statusOk {s u : State} (h : s.statusOk = true) (he : Enters s u) : u.statusOk = true := by
  obtain ⟨hhere, hcallers⟩ := State.statusOk_iff.mp h
  rw [State.statusOk_iff]
  cases he with
  | stays hpc hcs hst => rw [hpc, hcs, hst]; exact ⟨hhere, hcallers⟩
  | host q _ _ hpc hcs hst =>
    rw [hpc, hcs, hst]
    refine ⟨?_, nofun⟩
    rintro _ _ ⟨⟩ hk
    cases hk
  | spi q _ halg hpc hcs hst =>
    rw [hpc, hcs, hst]
    refine ⟨?_, ?_⟩
    · rintro _ _ ⟨⟩ hk
      cases hk
    · intro f hf hk
      rcases List.mem_cons.mp hf with rfl | hf
      · exact hhere _ _ halg hk
      · exact hcallers f hf hk
  | passes q n m hs hm _ hpc hcs hst =>
    rw [hpc, hcs]
    rcases hst with ⟨_, hst⟩ | ⟨hne, hst⟩
    · exact ⟨fun _ _ _ _ => hst, fun _ _ _ => hst⟩
    · rw [hst]
      refine ⟨?_, hcallers⟩
      rintro _ _ ⟨⟩ hk
      exact hhere q n hs ((stKnown_succ hm hne).symm.trans hk)

/-! Requests at their ports (R131). -/

theorem decodeHost_port {bs left : List Byte} {i : Instr} (h : decodeHost bs = .ok (i, left)) : i.port = .host := by
  rcases bs with _ | ⟨c, rest⟩
  · cases h
  · simp only [decodeHost] at h
    split at h
    · unfold decodeProgram at h
      split at h
      · split at h <;> cases h
        rfl
      · cases h
    · split at h
      · cases h; rfl
      · split at h
        · cases h; rfl
        · split at h <;> cases h
          rfl

theorem decodeSpi_port {bs left : List Byte} {i : Instr} (h : decodeSpi bs = .ok (i, left)) : i.port = .spi := by
  rcases bs with _ | ⟨c, rest⟩
  · cases h
  · simp only [decodeSpi] at h
    split at h
    · unfold decodeTransfer at h
      split at h
      · split at h
        · cases h
        · split at h <;> cases h
          rfl
      · cases h
    · split at h
      · unfold decodeWaitUntil at h
        split at h
        · split at h <;> cases h
          rfl
        · cases h
      · cases h

theorem pathOf_isHostLevel (m : ProgMode) (ext : Bool) : (pathOf m ext).isHostLevel = true := by
  cases m <;> cases ext <;> rfl

/-- One step of the engine, its host or the external algorithm as the control sees it: the step pointer is set, and comes to
rest. -/
inductive ComesToRest (s t : State) : Prop where
  | intro (u : State) (ht : t = u.settled) (hu : Enters s u)

/-- A step that leaves the step pointer at rest where it was. -/
theorem ComesToRest.ofRest {s t : State} (hrest : t.moved? = none) (hpc : t.pc = s.pc) (hcs : t.callers = s.callers)
    (hst : t.st = s.st) : ComesToRest s t :=
  .intro t (State.settled_of_rest hrest).symm (.stays hpc hcs hst)

theorem ComesToRest.controlOk {s t : State} (h : s.controlOk = true) (ht : ComesToRest s t) : t.controlOk = true := by
  obtain ⟨u, rfl, hu⟩ := ht
  exact State.settled_controlOk (hu.controlOk h)

theorem ComesToRest.statusOk {s t : State} (h : s.statusOk = true) (ht : ComesToRest s t) : t.statusOk = true := by
  obtain ⟨u, rfl, hu⟩ := ht
  exact State.settled_statusOk (hu.statusOk h)

theorem ComesToRest.atRest {s t : State} (ht : ComesToRest s t) : t.atRest = true := by
  obtain ⟨u, rfl, _⟩ := ht
  simp [State.atRest, u.settled_rest]

/-- A host request is refused or fails its setup checks, and the engine stays IDLE, or it starts its sequence (R34, R361,
R373). -/
theorem hostRequest_comesToRest {s t : State} {bs left : List Byte} {i : Instr} (hidle : s.pc = .idle) (hcs : s.callers = [])
    (hd : decodeHost bs = .ok (i, left)) (ht : exec i s.popHost = .next t) : ComesToRest s t := by
  have hport := decodeHost_port hd
  cases i with
  | program o v =>
    rcases execProgram_cases o v s.popHost with ⟨_, e⟩ | ⟨m, _, ⟨c, _, e⟩ | ⟨_, e⟩⟩ <;> rw [exec, e] at ht <;> cases ht
    · exact .ofRest (State.moved?_idle hidle) rfl rfl rfl
    · exact .ofRest (State.moved?_idle rfl) hidle.symm hcs.symm rfl
    · exact .intro _ rfl (.host _ (pathOf_isHostLevel m _) hidle rfl rfl rfl)
  | reset | readIdCode | readStatusRegister => cases ht; exact .intro _ rfl (.host _ rfl hidle rfl rfl rfl)
  | _ => cases hport

/-- A request of the external algorithm is refused, and the algorithm runs on, or it starts its sequence (R296, R373). -/
theorem spiRequest_comesToRest {s t : State} {bs left : List Byte} {i : Instr}
    (hpc : s.pc = .at .externalFlash algorithmStep) (hd : decodeSpi bs = .ok (i, left))
    (ht : exec i s.popExt = .next t) : ComesToRest s t := by
  have hport := decodeSpi_port hd
  cases i with
  | transfer c tx rl =>
    rcases execTransfer_cases c tx rl s.popExt with ⟨_, e⟩ | ⟨_, e⟩ <;> rw [exec, e] at ht <;> cases ht
    · exact .ofRest (State.moved?_algorithm hpc rfl) rfl rfl rfl
    · exact .intro _ rfl (.spi .spiTransfer rfl hpc rfl rfl rfl)
  | waitUntil c m x b v =>
    rcases execWaitUntil_cases c m x b v s.popExt with ⟨_, e⟩ | ⟨_, e⟩ <;> rw [exec, e] at ht <;> cases ht
    · exact .ofRest (State.moved?_algorithm hpc rfl) rfl rfl rfl
    · exact .intro _ rfl (.spi .spiWait rfl hpc rfl rfl rfl)
  | _ => cases hport

/-! The engine's step. -/

theorem hostWrites_pc (s : State) (w : HostInput) : (s.hostWrites w).pc = s.pc ∧ (s.hostWrites w).callers = s.callers ∧
    (s.hostWrites w).st = s.st := by
  cases w with
  | setMcuImg im => cases im <;> exact ⟨rfl, rfl, rfl⟩
  | _ => exact ⟨rfl, rfl, rfl⟩

/-- With nothing to do the step pointer is at rest. -/
theorem State.moved?_waiting {s : State} (h : s.fetch = .waiting) : s.moved? = none := by
  unfold State.fetch at h
  split at h
  · rename_i hpc; exact State.moved?_idle hpc
  · rename_i q n hpc
    split at h <;> try cases h
    rename_i hm; exact State.moved?_algorithm hpc hm

/-- A transport operation leaves the step pointer and the callers, and ST but for a status read's capture (R37, R176). -/
theorem State.perform_control {s t : State} {w : Wire} (h : s.perform w = .ok t) :
    t.pc = s.pc ∧ t.callers = s.callers ∧ (w = .readSt ∧ t.st.isSome = true ∨ w ≠ .readSt ∧ t.st = s.st) := by
  by_cases hw : w = .readSt
  · subst hw
    cases h
    exact ⟨rfl, rfl, .inl ⟨rfl, rfl⟩⟩
  · cases State.perform_ok h with
    | readSt => exact absurd rfl hw
    | readUc ht | readReturn ht | captureId ht | spiRead _ _ ht | quiet _ ht => rw [ht]; exact ⟨rfl, rfl, .inr ⟨hw, rfl⟩⟩

/-- From a legal state the engine's step sets the step pointer, and it comes to rest. -/
theorem EngineTo.comesToRest {s t : State} (hc : s.controlOk = true) (h : EngineTo s t) : ComesToRest s t := by
  cases h with
  | waits hF ht => subst ht; exact .ofRest (State.moved?_waiting hF) rfl rfl rfl
  | hostWrite w _ hpc _ _ ht =>
    subst ht
    obtain ⟨hp, hcs, hst⟩ := hostWrites_pc s.popHost w
    exact .ofRest (State.moved?_idle (hp.trans hpc)) hp hcs hst
  | hostRequest _ _ _ _ hpc _ hd ht => exact hostRequest_comesToRest hpc ((State.controlOk_idle hpc).mp hc) hd ht
  | command q n c hpc hm ht =>
    subst ht
    have hlatch : microAt q (n + 1) = some .latch := by
      rcases hm with hm | ⟨b, hm, _⟩
      · exact latch_after_cmd hm
      · exact latch_after_cmdByte hm
    refine .intro _ (State.settled_of_rest (State.moved?_latch rfl hlatch)).symm ?_
    rcases hm with hm | ⟨b, hm, _⟩
    · exact .passes q n _ hpc hm nofun rfl rfl (.inr ⟨nofun, rfl⟩)
    · exact .passes q n _ hpc hm nofun rfl rfl (.inr ⟨nofun, rfl⟩)
  | latch q n hpc hm ht =>
    subst ht
    exact .intro _ rfl (.passes q n _ hpc hm nofun (congrArg Pc.next hpc) rfl (.inr ⟨nofun, rfl⟩))
  | wire q n w u hpc hm hu ht =>
    subst ht
    obtain ⟨hp, hcs, hst⟩ := State.perform_control hu
    refine .intro _ rfl (.passes q n _ hpc hm nofun (congrArg Pc.next (hp.trans hpc)) hcs ?_)
    simpa using hst
  | spiRequest q n _ _ _ _ hpc hm _ hd ht =>
    obtain ⟨rfl, rfl⟩ := eq_of_algorithm hm
    exact spiRequest_comesToRest hpc hd ht
  | algorithmEnd q n _ _ hpc hm _ ht =>
    subst ht
    exact .intro _ rfl (.passes q n _ hpc hm nofun (congrArg Pc.next hpc) rfl (.inr ⟨nofun, rfl⟩))
  | unsettled _ _ _ _ _ ht => subst ht; exact .intro s rfl (.stays rfl rfl rfl)

/-! The machine's step. -/

/-- A legal state's step performs an operation of the transport's queue, or moves the step pointer and comes to rest. -/
theorem step_comesToRest {s t : State} (hc : s.controlOk = true) (h : step s = .next t) :
    t = s.withPerformed (s.xport.performed + 1) ∨ ComesToRest s t := by
  rcases step_next h with ⟨_, ht⟩ | ⟨_, he⟩
  · exact .inl ht
  · exact .inr (he.comesToRest hc)

theorem step_controlOk {s t : State} (hc : s.controlOk = true) (h : step s = .next t) : t.controlOk = true := by
  rcases step_comesToRest hc h with rfl | ht
  · exact hc
  · exact ht.controlOk hc

theorem step_statusOk {s t : State} (hc : s.controlOk = true) (hs : s.statusOk = true) (h : step s = .next t) :
    t.statusOk = true := by
  rcases step_comesToRest hc h with rfl | ht
  · exact hs
  · exact ht.statusOk hs

theorem step_atRest {s t : State} (hc : s.controlOk = true) (hr : s.atRest = true) (h : step s = .next t) :
    t.atRest = true := by
  rcases step_comesToRest hc h with rfl | ht
  · simpa [State.atRest, State.moved?_withPerformed] using hr
  · exact ht.atRest

/-- No more than three callers stand above a legal step pointer (R371). -/
theorem State.callers_length_le {s : State} (h : s.controlOk = true) : s.callers.length ≤ 3 := by
  rcases hpc : s.pc with _ | ⟨q, n⟩
  · simp [(State.controlOk_idle hpc).mp h]
  · exact (length_le_depth ((State.controlOk_at hpc).mp h).2).trans q.depth_le

/-- Settles O48: the control as each step leaves it, and the depth of the sequences. -/
theorem controlKept : Obligations.ControlKept :=
  ⟨fun _ _ hc h => ⟨step_controlOk hc h, fun hr => step_atRest hc hr h⟩, fun _ => State.callers_length_le⟩

/-- Settles O52: steps and single moves pass no status read, and the entries that use ST stand behind one. -/
theorem statusKnownKept : Obligations.StatusKnownKept := by
  refine ⟨?_, ?_⟩
  · rintro s t hc hs (hstep | hmove)
    · exact ⟨step_controlOk hc hstep, step_statusOk hc hs hstep⟩
    · exact ⟨State.moved?_controlOk hc hmove, State.moved?_statusOk hs hmove⟩
  · intro s q n c _ hs hpc hm hu
    obtain ⟨hhere, _⟩ := State.statusOk_iff.mp hs
    exact hhere q n hpc (stKnown_of_usesStatus hm hu)

end Sys2Proof.Machine
end

section
/-! PROOFS. What no step changes: the identity, the variant and the parameters, and while a host operation runs the
configuration too (R32, R35, R36, R344). -/

namespace Sys2Proof.Machine

/-- ID, VAR and the parameters are as before (R35). -/
structure Fixed (s t : State) : Prop where
  id : t.id = s.id
  var : t.var = s.var
  cfg : t.cfg = s.cfg

/-- Beside them the configuration registers, program's operands, the images and the host's pending inputs are as before
(R344). -/
structure Configured (s t : State) : Prop where
  id : t.id = s.id
  var : t.var = s.var
  cfg : t.cfg = s.cfg
  mode : t.mode = s.mode
  extSel : t.extSel = s.extSel
  mcuImgSel : t.mcuImgSel = s.mcuImgSel
  verifyReq : t.verifyReq = s.verifyReq
  offset : t.offset = s.offset
  unprotect : t.unprotect = s.unprotect
  bs : t.bs = s.bs
  mcu : t.mcu = s.mcu
  hostIn : t.hostIn = s.hostIn

theorem Configured.refl (s : State) : Configured s s := by constructor <;> rfl

theorem Configured.fixed {s t : State} (h : Configured s t) : Fixed s t := ⟨h.id, h.var, h.cfg⟩

theorem Fixed.trans {s t u : State} (h : Fixed s t) (h' : Fixed t u) : Fixed s u :=
  ⟨h'.id.trans h.id, h'.var.trans h.var, h'.cfg.trans h.cfg⟩

theorem Configured.trans {s t u : State} (h : Configured s t) (h' : Configured t u) : Configured s u where
  id := h'.id.trans h.id
  var := h'.var.trans h.var
  cfg := h'.cfg.trans h.cfg
  mode := h'.mode.trans h.mode
  extSel := h'.extSel.trans h.extSel
  mcuImgSel := h'.mcuImgSel.trans h.mcuImgSel
  verifyReq := h'.verifyReq.trans h.verifyReq
  offset := h'.offset.trans h.offset
  unprotect := h'.unprotect.trans h.unprotect
  bs := h'.bs.trans h.bs
  mcu := h'.mcu.trans h.mcu
  hostIn := h'.hostIn.trans h.hostIn

theorem Unmoved.configured {s t : State} (h : Unmoved s t) : Configured s t :=
  ⟨h.id, h.var, h.cfg, h.mode, h.extSel, h.mcuImgSel, h.verifyReq, h.offset, h.unprotect, h.bs, h.mcu, h.hostIn⟩

theorem State.settled_configured (s : State) : Configured s s.settled := s.settled_unmoved.configured

theorem State.advance_configured (s : State) : Configured s s.advance :=
  .trans (t := { s with pc := s.pc.next }) (by constructor <;> rfl) (State.settled_configured _)

theorem State.start_fixed (s : State) (q : Seq) : Fixed s (s.start q) :=
  .trans (t := { s with pc := .at q 0, callers := [], returned := none }) ⟨rfl, rfl, rfl⟩
    (State.settled_configured _).fixed

theorem State.startSpi_configured (s : State) (q : Seq) : Configured s (s.startSpi q) :=
  .trans (t := { s with pc := .at q 0, callers := ⟨.externalFlash, algorithmStep, false⟩ :: s.callers, spiReply := none })
    (by constructor <;> rfl) (State.settled_configured _)

/-! Instructions. -/

theorem execTransfer_configured {c : Byte} {tx : Option (List Byte)} {rl : Option Word} {s t : State}
    (h : execTransfer c tx rl s = .next t) : Configured s t := by
  rcases execTransfer_cases c tx rl s with ⟨_, e⟩ | ⟨_, e⟩ <;> rw [h, Host.Outcome.next.injEq] at e <;> subst e
  · constructor <;> rfl
  · exact .trans (t := s.loadSpi _ _) (by constructor <;> rfl) (State.startSpi_configured _ _)

theorem execWaitUntil_configured {c m x : Byte} {b : Word} {v : Bool} {s t : State}
    (h : execWaitUntil c m x b v s = .next t) : Configured s t := by
  rcases execWaitUntil_cases c m x b v s with ⟨_, e⟩ | ⟨_, e⟩ <;> rw [h, Host.Outcome.next.injEq] at e <;> subst e
  · constructor <;> rfl
  · exact .trans (t := s.loadSpi _ _) (by constructor <;> rfl) (State.startSpi_configured _ _)

theorem execProgram_fixed {o : Word} {u : Bool} {s t : State} (h : execProgram o u s = .next t) : Fixed s t := by
  rcases execProgram_cases o u s with ⟨_, e⟩ | ⟨m, _, ⟨c, _, e⟩ | ⟨_, e⟩⟩ <;>
    rw [h, Host.Outcome.next.injEq] at e <;> subst e
  · exact ⟨rfl, rfl, rfl⟩
  · exact ⟨rfl, rfl, rfl⟩
  · exact .trans (t := s.latchProgram o u) ⟨rfl, rfl, rfl⟩ (State.start_fixed _ _)

/-- No host request changes the identity, the variant or a parameter (R35, R346). -/
theorem exec_host_fixed {i : Instr} {s t : State} (hp : i.port = .host) (h : exec i s = .next t) : Fixed s t := by
  cases i with
  | program o u => exact execProgram_fixed h
  | reset | readIdCode | readStatusRegister => cases h; exact s.start_fixed _
  | _ => cases hp

theorem exec_spi_configured {i : Instr} {s t : State} (hp : i.port = .spi) (h : exec i s = .next t) : Configured s t := by
  cases i with
  | transfer c tx rl => exact execTransfer_configured h
  | waitUntil c m x b v => exact execWaitUntil_configured h
  | _ => cases hp

/-! Steps. -/

theorem State.hostWrites_fixed (s : State) (w : HostInput) : Fixed s (s.hostWrites w) := by
  cases w with
  | setMcuImg im => cases im <;> exact ⟨rfl, rfl, rfl⟩
  | _ => exact ⟨rfl, rfl, rfl⟩

/-- Of the transport operations construction's capture alone writes ID, VAR and EXT_SEL (R391). -/
theorem State.perform_configured {s t : State} {w : Wire} (hw : w ≠ .captureId) (h : s.perform w = .ok t) :
    Configured s t := by
  cases State.perform_ok h with
  | captureId => exact absurd rfl hw
  | readSt ht | readUc ht | readReturn ht | spiRead _ _ ht | quiet _ ht => rw [ht]; constructor <;> rfl

/-- While a host operation runs the engine's step changes nothing of the configuration. -/
theorem EngineTo.configured {s t : State} (hc : s.controlOk = true) (hrun : s.pc ≠ .idle) (h : EngineTo s t) :
    Configured s t := by
  cases h with
  | waits _ ht => subst ht; exact .refl t
  | hostWrite _ _ hpc | hostRequest _ _ _ _ hpc => exact absurd hpc hrun
  | command _ _ _ _ _ ht => subst ht; constructor <;> rfl
  | latch _ _ _ _ ht =>
    subst ht
    exact .trans (t := s.latchCommand) (by constructor <;> rfl) (State.advance_configured _)
  | wire q n w u hpc hm hu ht =>
    subst ht
    have hw : w ≠ .captureId := by
      rintro rfl
      exact ne_construct ((State.controlOk_at hpc).mp hc).2 (eq_of_captureId hm)
    exact (State.perform_configured hw hu).trans u.advance_configured
  | spiRequest _ _ _ _ _ _ _ _ _ hd ht =>
    exact .trans (t := s.popExt) (by constructor <;> rfl) (exec_spi_configured (decodeSpi_port hd) ht)
  | algorithmEnd _ _ ok _ _ _ _ ht =>
    subst ht
    exact .trans (t := { s.popExt with fsm := { s.fsm with algoOk := ok } }) (by constructor <;> rfl)
      (State.advance_configured _)
  | unsettled _ _ _ _ _ ht => subst ht; exact s.settled_configured

/-- While IDLE a step takes a host input, which leaves the identity, the variant and the parameters. -/
theorem EngineTo.fixed_of_idle {s t : State} (hidle : s.pc = .idle) (h : EngineTo s t) : Fixed s t := by
  cases h with
  | waits _ ht => subst ht; exact ⟨rfl, rfl, rfl⟩
  | hostWrite w _ _ _ _ ht => subst ht; exact .trans (t := s.popHost) ⟨rfl, rfl, rfl⟩ (State.hostWrites_fixed _ w)
  | hostRequest _ _ _ _ _ _ hd ht =>
    exact .trans (t := s.popHost) ⟨rfl, rfl, rfl⟩ (exec_host_fixed (decodeHost_port hd) ht)
  | command _ _ _ hpc | latch _ _ hpc | wire _ _ _ _ hpc | spiRequest _ _ _ _ _ _ hpc | algorithmEnd _ _ _ _ hpc
  | unsettled _ _ _ hpc => cases hidle.symm.trans hpc

theorem step_fixed {s t : State} (hc : s.controlOk = true) (h : step s = .next t) : Fixed s t := by
  rcases step_next h with ⟨_, rfl⟩ | ⟨_, he⟩
  · exact ⟨rfl, rfl, rfl⟩
  · by_cases hidle : s.pc = .idle
    · exact he.fixed_of_idle hidle
    · exact (he.configured hc hidle).fixed

theorem step_configured {s t : State} (hc : s.controlOk = true) (hrun : s.pc ≠ .idle) (h : step s = .next t) :
    Configured s t := by
  rcases step_next h with ⟨_, rfl⟩ | ⟨_, he⟩
  · constructor <;> rfl
  · exact he.configured hc hrun

/-- Settles O57: the steps while IDLE and the steps of a sequence, in which construction's capture does not stand. -/
theorem configurationKept : Obligations.ConfigurationKept := by
  intro s t hc h
  have hf := step_fixed hc h
  refine ⟨hf.id, hf.var, hf.cfg, fun hrun => ?_⟩
  have hk := step_configured hc hrun h
  exact ⟨hk.mode, hk.extSel, hk.mcuImgSel, hk.verifyReq, hk.offset, hk.unprotect, hk.bs, hk.mcu, hk.hostIn⟩

end Sys2Proof.Machine
end

section
/-! PROOFS. The steps that run an instruction at a port (R33, R121, R310, R344). -/

namespace Sys2Proof.Machine

open Sys2Proof.Claims

/-- An instruction whose bytes stand at a port is taken from it and run. -/
theorem step_of_bytes {s : State} {p : Port} {bs left : List Byte} {i : Instr} (hturn : engineTurn s)
    (hF : s.fetch = .bytes p bs) (hd : decode s.cfg.op p bs = .ok (i, left)) : step s = exec i (s.consume p) := by
  simp only [step_of_engine hturn, engineStep, hF, hd]

theorem State.fetch_host {s : State} {bs : List Byte} {rest : List HostInput} (hpc : s.pc = .idle)
    (hin : s.hostIn = .request bs :: rest) : s.fetch = .bytes .host bs := by
  simp only [State.fetch, hpc, hin, fetchHost]

theorem State.fetch_spi {s : State} {q : Seq} {n : Nat} {bs : List Byte} {rest : List ExtInput} (hpc : s.pc = .at q n)
    (hm : microAt q n = some .algorithm) (hin : s.extIn = .request bs :: rest) : s.fetch = .bytes .spi bs := by
  simp only [State.fetch, hpc, hm, hin, fetchExt]

theorem State.fetch_cmdByte {s : State} {q : Seq} {n : Nat} {b : Byte} (hpc : s.pc = .at q n)
    (hm : microAt q n = some (.cmdByte b)) : s.fetch = .bytes .command [b] := by
  simp only [State.fetch, hpc, hm]

theorem State.fetch_cmd {s : State} {q : Seq} {n : Nat} {c : Cmd} (hpc : s.pc = .at q n)
    (hm : microAt q n = some (.cmd c)) : s.fetch = .command c := by
  simp only [State.fetch, hpc, hm]

/-- Settles O4, port by port: what is fetched, and what taking it from its port leaves. -/
theorem stepRunsDecoded : Obligations.StepRunsDecoded := by
  refine ⟨?_, ?_, ?_, ?_⟩
  · intro s bs left rest i hturn hpc hin hd
    rw [step_of_bytes hturn (State.fetch_host hpc hin) hd, State.consume_host, State.popHost, hin, List.tail_cons]
  · intro s q n bs left rest i hturn hpc hm hin hd
    rw [step_of_bytes hturn (State.fetch_spi hpc hm hin) hd, State.consume_spi, State.popExt, hin, List.tail_cons]
  · intro s q n c hturn hpc hm
    simp only [step_of_engine hturn, engineStep, State.fetch_cmd hpc hm, State.consume_command, hpc, Pc.next_at]
  · intro s q n b left i hturn hpc hm hd
    rw [step_of_bytes hturn (State.fetch_cmdByte hpc hm) hd, State.consume_command, hpc, Pc.next_at]

end Sys2Proof.Machine
end

section
/-! PROOFS. The machine at reset: the values of R54 and every invariant (R391). -/

namespace Sys2Proof.Machine

/-- The parameters at reset meet the spec's constraints on them, whichever they are (log 4). -/
theorem params_wf : Config.params.wf = true := by
  unfold Config.params
  split
  · assumption
  · decide

/-- Every command's IR value is in the command table (R116). -/
theorem decodeCommandByte_isSome (o : OpCodes) (c : Cmd) : (decodeCommandByte o (o.code c)).isSome = true := by
  have hc : c ∈ Cmd.all := by cases c <;> decide
  exact List.find?_isSome.mpr ⟨c, hc, beq_self_eq_true _⟩

/-- Construction has issued its identity read, and nothing else (R391). -/
theorem constructXport_issued (p : Params) : (constructXport p).issued =
    [.ir (p.op.code .readIdcode), .clk latchClocks, .dr 32 readProbe .runTestIdle true] := rfl

/-- The identity read is a barrier: nothing of construction waits in the queue (R53). -/
theorem constructXport_performed (p : Params) : (constructXport p).performed = (constructXport p).queued.length := rfl

theorem reset_wireOk : State.reset.wireOk = true := by
  have hissued : State.reset.xport.issued = _ := constructXport_issued Config.params
  have hperformed : State.reset.xport.performed = State.reset.xport.queued.length :=
    constructXport_performed Config.params
  have htable : inTable State.reset.cfg.op (.ir (Config.params.op.code .readIdcode)) = true :=
    decodeCommandByte_isSome _ _
  have hlatch : State.reset.atLatch = false := rfl
  simp only [State.wireOk, State.settledOps, hlatch, hissued, hperformed, List.all_cons, htable]
  decide

theorem reset_runOk : State.reset.runOk = true := by
  have hwf : State.reset.cfg.wf = true := params_wf
  simp only [State.runOk, hwf]
  rfl

/-- Settles O46: reset is construction, whose values these are. -/
theorem resetValues : Obligations.ResetValues :=
  ⟨rfl, rfl, rfl, rfl, rfl, rfl, rfl, rfl, rfl, rfl, rfl, rfl, rfl, rfl, rfl, rfl⟩

/-- Settles O60: at reset the step pointer is IDLE, and what each invariant says of the issued operations, the images and the
parameters holds of construction's. -/
theorem invariantsAtReset : Obligations.InvariantsAtReset :=
  ⟨rfl, rfl, reset_wireOk, rfl, reset_runOk, rfl, rfl, rfl, rfl⟩

end Sys2Proof.Machine
end

section
/-! PROOFS. The image memory: MemRead's range, and that a canonical memory is known by its reads (20_memory.md R70, R71). -/

namespace Sys2Proof.Machine

/-! MemRead (R70). -/

theorem Image.memRead_of_le {im : Image} {addr n : Nat} (h : addr + n ≤ im.bitLen / 8) :
    im.memRead addr n = some ((List.range n).map fun i => im.mem.read (addr + i)) :=
  if_pos h

theorem Image.memRead_of_lt {im : Image} {addr n : Nat} (h : im.bitLen / 8 < addr + n) : im.memRead addr n = none :=
  if_neg (Nat.not_le.mpr h)

theorem Memory.read_ofBytes {bs : List Byte} {i : Nat} (h : i < bs.length) : (Memory.ofBytes bs).read i = bs[i] := by
  have hread := Memory.read_fill bs 0 Memory.empty_wf h
  rwa [Nat.zero_add] at hread

/-- An image of bytes is read whole (R70). -/
theorem Image.memRead_ofBytes (bs : List Byte) : (Image.ofBytes bs).memRead 0 bs.length = some bs := by
  have hlen : 0 + bs.length ≤ (Image.ofBytes bs).bitLen / 8 := by simp [Image.ofBytes]
  rw [Image.memRead_of_le hlen, Option.some_inj]
  refine List.ext_getElem (by simp) fun i _ hi => ?_
  rw [List.getElem_map, List.getElem_range, Nat.zero_add]
  exact Memory.read_ofBytes hi

/-! The canonical form (log 12). -/

theorem cellsFrom_cons {lo : Nat} {c : Host.Cell} {cs : List Host.Cell} :
    cellsFrom lo (c :: cs) = true ↔ lo ≤ c.1 ∧ c.2 ≠ unlistedByte ∧ cellsFrom (c.1 + 1) cs = true := by
  simp [cellsFrom, and_assoc]

@[simp] theorem lookupCell_head (c : Host.Cell) (cs : List Host.Cell) : lookupCell (c :: cs) c.1 = c.2 :=
  if_pos rfl

theorem lookupCell_tail {c : Host.Cell} {a : Nat} (h : c.1 ≠ a) (cs : List Host.Cell) :
    lookupCell (c :: cs) a = lookupCell cs a :=
  if_neg h

/-- No offset below the first cell's reads as a listed byte. -/
theorem head_le_of_lookupCell_ne {lo a : Nat} {c : Host.Cell} {cs : List Host.Cell} (h : cellsFrom lo (c :: cs) = true)
    (ha : lookupCell (c :: cs) a ≠ unlistedByte) : c.1 ≤ a := by
  have hfrom : cellsFrom c.1 (c :: cs) = true := cellsFrom_cons.mpr ⟨le_rfl, (cellsFrom_cons.mp h).2⟩
  exact Nat.not_lt.mp fun hlt => ha (lookupCell_of_lt hfrom hlt)

/-- Canonical cells are known by what they read as: the first cell stands at the least offset with a listed byte. -/
theorem cells_eq_of_lookupCell_eq : ∀ {cs ds : List Host.Cell} {lo lo' : Nat}, cellsFrom lo cs = true →
    cellsFrom lo' ds = true → (∀ a, lookupCell cs a = lookupCell ds a) → cs = ds
  | [], [], _, _, _, _, _ => rfl
  | [], d :: ds, _, _, _, hd, heq => by
    obtain ⟨_, hlisted, _⟩ := cellsFrom_cons.mp hd
    exact absurd ((heq d.1).trans (lookupCell_head d ds)).symm hlisted
  | c :: cs, [], _, _, hc, _, heq => by
    obtain ⟨_, hlisted, _⟩ := cellsFrom_cons.mp hc
    exact absurd ((lookupCell_head c cs).symm.trans (heq c.1)) hlisted
  | c :: cs, d :: ds, _, _, hc, hd, heq => by
    obtain ⟨_, hcl, hcs⟩ := cellsFrom_cons.mp hc
    obtain ⟨_, hdl, hds⟩ := cellsFrom_cons.mp hd
    have hoffset : c.1 = d.1 := le_antisymm
      (head_le_of_lookupCell_ne hc (by rw [heq, lookupCell_head]; exact hdl))
      (head_le_of_lookupCell_ne hd (by rw [← heq, lookupCell_head]; exact hcl))
    have hbyte : c.2 = d.2 := by
      have hhead := heq c.1
      rwa [lookupCell_head, hoffset, lookupCell_head] at hhead
    have htail : ∀ a, lookupCell cs a = lookupCell ds a := fun a => by
      rcases Nat.lt_or_ge c.1 a with hlt | hle
      · have ha := heq a
        rwa [lookupCell_tail (by omega), lookupCell_tail (by omega)] at ha
      · rw [lookupCell_of_lt hcs (by omega), lookupCell_of_lt hds (by omega)]
    rw [Prod.ext hoffset hbyte, cells_eq_of_lookupCell_eq hcs hds htail]

theorem Memory.eq_of_read_eq {m m' : Memory} (h : m.wf = true) (h' : m'.wf = true) (heq : ∀ a, m.read a = m'.read a) :
    m = m' :=
  congrArg Memory.mk (cells_eq_of_lookupCell_eq h h' heq)

/-- Settles O47: MemRead's two sides of LEN, the buffer of a byte list, and the canonical form's reads and writes. -/
theorem imageMemory : Obligations.ImageMemory :=
  ⟨fun _ _ _ => ⟨Image.memRead_of_le, Image.memRead_of_lt⟩,
    fun bs => ⟨Memory.ofBytes_wf bs, Image.memRead_ofBytes bs⟩,
    fun _ _ => Memory.eq_of_read_eq,
    fun m a b h => ⟨Memory.write_wf h a b, Memory.read_write_same h a b, fun _ hne => m.read_write_other hne.symm b⟩⟩

end Sys2Proof.Machine
end

section
/-! PROOFS. Only the host's attachments change an image, and every image stays in canonical form (20_memory.md R70, R72,
R17). -/

namespace Sys2Proof.Machine

/-- Both images and the host's pending inputs are as before. -/
structure SameImages (s t : State) : Prop where
  bs : t.bs = s.bs
  mcu : t.mcu = s.mcu
  hostIn : t.hostIn = s.hostIn

theorem SameImages.refl (s : State) : SameImages s s := ⟨rfl, rfl, rfl⟩

theorem SameImages.trans {s t u : State} (h : SameImages s t) (h' : SameImages t u) : SameImages s u :=
  ⟨h'.bs.trans h.bs, h'.mcu.trans h.mcu, h'.hostIn.trans h.hostIn⟩

theorem Configured.sameImages {s t : State} (h : Configured s t) : SameImages s t := ⟨h.bs, h.mcu, h.hostIn⟩

theorem State.start_sameImages (s : State) (q : Seq) : SameImages s (s.start q) :=
  .trans (t := { s with pc := .at q 0, callers := [], returned := none }) ⟨rfl, rfl, rfl⟩
    (State.settled_configured _).sameImages

theorem execProgram_sameImages {o : Word} {u : Bool} {s t : State} (h : execProgram o u s = .next t) :
    SameImages s t := by
  rcases execProgram_cases o u s with ⟨_, e⟩ | ⟨m, _, ⟨c, _, e⟩ | ⟨_, e⟩⟩ <;>
    rw [h, Host.Outcome.next.injEq] at e <;> subst e
  · exact ⟨rfl, rfl, rfl⟩
  · exact ⟨rfl, rfl, rfl⟩
  · exact .trans (t := s.latchProgram o u) ⟨rfl, rfl, rfl⟩ (State.start_sameImages _ _)

/-- No instruction changes an image (R17). -/
theorem exec_sameImages {i : Instr} {s t : State} (h : exec i s = .next t) : SameImages s t := by
  cases i with
  | program o u => exact execProgram_sameImages h
  | reset | readIdCode | readStatusRegister => cases h; exact s.start_sameImages _
  | transfer c tx rl => exact (execTransfer_configured h).sameImages
  | waitUntil c m x b v => exact (execWaitUntil_configured h).sameImages
  | _ => cases h; exact ⟨rfl, rfl, rfl⟩

theorem State.perform_sameImages {s t : State} {w : Wire} (h : s.perform w = .ok t) : SameImages s t := by
  cases State.perform_ok h with
  | readSt ht | readUc ht | readReturn ht | captureId ht | spiRead _ _ ht | quiet _ ht => rw [ht]; exact ⟨rfl, rfl, rfl⟩

/-- All that a step does to the images and the host's inputs: nothing, or the host's first input is taken, which is a request
or is written. -/
inductive ImagesTo (s t : State) : Prop where
  | same (h : SameImages s t)
  | request (h : SameImages s.popHost t)
  | hostWrite (w : HostInput) (rest : List HostInput) (hpc : s.pc = .idle) (hin : s.hostIn = w :: rest)
      (ht : t = s.popHost.hostWrites w)

theorem EngineTo.imagesTo {s t : State} (h : EngineTo s t) : ImagesTo s t := by
  cases h with
  | waits _ ht => subst ht; exact .same (.refl t)
  | hostWrite w rest hpc hin _ ht => exact .hostWrite w rest hpc hin ht
  | hostRequest _ _ _ _ _ _ _ ht => exact .request (exec_sameImages ht)
  | command _ _ _ _ _ ht => subst ht; exact .same ⟨rfl, rfl, rfl⟩
  | latch _ _ _ _ ht =>
    subst ht
    exact .same (.trans (t := s.latchCommand) ⟨rfl, rfl, rfl⟩ (State.advance_configured _).sameImages)
  | wire _ _ _ u _ _ hu ht => subst ht; exact .same ((State.perform_sameImages hu).trans u.advance_configured.sameImages)
  | spiRequest _ _ _ _ _ _ _ _ _ _ ht => exact .same (.trans (t := s.popExt) ⟨rfl, rfl, rfl⟩ (exec_sameImages ht))
  | algorithmEnd _ _ ok _ _ _ _ ht =>
    subst ht
    exact .same (.trans (t := { s.popExt with fsm := { s.fsm with algoOk := ok } }) ⟨rfl, rfl, rfl⟩
      (State.advance_configured _).sameImages)
  | unsettled _ _ _ _ _ ht => subst ht; exact .same s.settled_configured.sameImages

theorem step_imagesTo {s t : State} (h : step s = .next t) : ImagesTo s t := by
  rcases step_next h with ⟨_, rfl⟩ | ⟨_, he⟩
  · exact .same ⟨rfl, rfl, rfl⟩
  · exact he.imagesTo

/-! What the host's inputs do to the images (R350, R395). -/

/-- Only an attachment changes the bitstream (R70, R395). -/
theorem State.hostWrites_bs {w : HostInput} (h : ∀ b, w ≠ .attach b) (s : State) : (s.hostWrites w).bs = s.bs := by
  cases w with
  | attach b => exact absurd rfl (h b)
  | setMcuImg im => cases im <;> rfl
  | _ => rfl

/-- Only a firmware image given changes the firmware image (R72, R350). -/
theorem State.hostWrites_mcu {w : HostInput} (h : ∀ im, w ≠ .setMcuImg (some im)) (s : State) :
    (s.hostWrites w).mcu = s.mcu := by
  cases w with
  | setMcuImg im =>
    cases im with
    | none => rfl
    | some im => exact absurd rfl (h im)
  | _ => rfl

/-! The canonical form (log 12). -/

theorem State.memOk_iff {s : State} : s.memOk = true ↔
    s.bs.image.mem.wf = true ∧ s.mcu.mem.wf = true ∧ ∀ w ∈ s.hostIn, w.memOk = true := by
  simp [State.memOk, and_assoc]

theorem SameImages.memOk {s t : State} (h : SameImages s t) (hs : s.memOk = true) : t.memOk = true := by
  simpa only [State.memOk, h.bs, h.mcu, h.hostIn] using hs

theorem State.popHost_memOk {s : State} (h : s.memOk = true) : s.popHost.memOk = true := by
  obtain ⟨hbs, hmcu, hin⟩ := State.memOk_iff.mp h
  exact State.memOk_iff.mpr ⟨hbs, hmcu, fun w hw => hin w (List.mem_of_mem_tail hw)⟩

theorem State.hostWrites_memOk {s : State} {w : HostInput} (hw : w.memOk = true) (h : s.memOk = true) :
    (s.hostWrites w).memOk = true := by
  obtain ⟨hbs, hmcu, hin⟩ := State.memOk_iff.mp h
  cases w with
  | attach b => exact State.memOk_iff.mpr ⟨hw, hmcu, hin⟩
  | setMcuImg im =>
    cases im with
    | none => exact h
    | some im => exact State.memOk_iff.mpr ⟨hbs, hw, hin⟩
  | _ => exact h

theorem step_memOk {s t : State} (hs : s.memOk = true) (h : step s = .next t) : t.memOk = true := by
  cases step_imagesTo h with
  | same hsame => exact hsame.memOk hs
  | request hsame => exact hsame.memOk (State.popHost_memOk hs)
  | hostWrite w rest _ hin ht =>
    obtain ⟨_, _, hinputs⟩ := State.memOk_iff.mp hs
    have hw : w.memOk = true := hinputs w (by simp [hin])
    exact ht ▸ State.hostWrites_memOk hw (State.popHost_memOk hs)

theorem step_bs {s t : State} (h : step s = .next t) (hno : ∀ b rest, s.pc = .idle → s.hostIn ≠ .attach b :: rest) :
    t.bs = s.bs := by
  cases step_imagesTo h with
  | same hsame | request hsame => exact hsame.bs
  | hostWrite w rest hpc hin ht =>
    subst ht
    exact State.hostWrites_bs (fun b hb => hno b rest hpc (hb ▸ hin)) s.popHost

theorem step_mcu {s t : State} (h : step s = .next t)
    (hno : ∀ im rest, s.pc = .idle → s.hostIn ≠ .setMcuImg (some im) :: rest) : t.mcu = s.mcu := by
  cases step_imagesTo h with
  | same hsame | request hsame => exact hsame.mcu
  | hostWrite w rest hpc hin ht =>
    subst ht
    exact State.hostWrites_mcu (fun im him => hno im rest hpc (him ▸ hin)) s.popHost

end Sys2Proof.Machine

/-! Outside `Machine`, where the theorem's name would hide the predicate `Claims.imagesKept`. -/

namespace Sys2Proof.Laws

open Machine

/-- Settles O50: a step leaves the images, or takes the host's first input. -/
theorem imagesKept : Obligations.ImagesKept :=
  ⟨fun _ _ => step_memOk, fun _ _ => step_bs, fun _ _ => step_mcu⟩

end Sys2Proof.Laws
end

section
/-! PROOFS. Words and their bytes: what a register read gives, and what the data words shift out (20_memory.md R77 to R82). -/

namespace Sys2Proof.Machine

open Sys2Proof.Claims

/-! The value of a register read (R77). -/

/-- R77's formula is the concatenation of the four bytes: each bit lies in one of them, and beyond its eight bits a byte adds
nothing. -/
theorem leWord_eq_or (b0 b1 b2 b3 : Byte) : leWord b0 b1 b2 b3 =
    b0.setWidth 32 ||| (b1.setWidth 32 <<< 8) ||| (b2.setWidth 32 <<< 16) ||| (b3.setWidth 32 <<< 24) := by
  have hbeyond : ∀ (b : Byte) j, 8 ≤ j → b.getLsbD j = false := fun b j => BitVec.getLsbD_of_ge b j
  refine BitVec.eq_of_getLsbD_eq fun i hi => ?_
  simp only [leWord, BitVec.getLsbD_append, BitVec.getLsbD_or, BitVec.getLsbD_shiftLeft, BitVec.getLsbD_setWidth]
  obtain hbyte | hbyte | hbyte | hbyte : i < 8 ∨ (8 ≤ i ∧ i < 16) ∨ (16 ≤ i ∧ i < 24) ∨ 24 ≤ i := by omega
  all_goals grind

theorem State.answerWord_scripted {s : State} {b0 b1 b2 b3 : Byte} {rs : List (List Byte)}
    (h : s.xport.replies = [b0, b1, b2, b3] :: rs) : s.answerWord = leWord b0 b1 b2 b3 := by
  have hanswer : s.xport.answer 32 = [b0, b1, b2, b3] := Transport.answer_scripted (k := 4) h rfl
  rw [State.answerWord, hanswer]
  rfl

/-- Settles O7: the scripted capture's word, and R79's bytes of a word put together again. -/
theorem registerReadValue : Obligations.RegisterReadValue :=
  ⟨fun _ b0 b1 b2 b3 _ h => (State.answerWord_scripted h).trans (leWord_eq_or b0 b1 b2 b3), Laws.leWord_leBytes⟩

/-! The data words (R79, R80, R82). -/

theorem extractByte_setWidth_low (c : BitVec 16) {k : Nat} (hk : k + 8 ≤ 16) :
    (c.setWidth 32).extractLsb' k 8 = c.extractLsb' k 8 := by
  refine BitVec.eq_of_getLsbD_eq fun i hi => ?_
  have hlt : k + i < 32 := by omega
  simp [hlt]

theorem extractByte_setWidth_high (c : BitVec 16) {k : Nat} (hk : 16 ≤ k) : (c.setWidth 32).extractLsb' k 8 = 0 := by
  refine BitVec.eq_of_getLsbD_eq fun i hi => ?_
  have hbeyond : c.getLsbD (k + i) = false := BitVec.getLsbD_of_ge c _ (by omega)
  simp [hbeyond]

/-- The checksum word is the checksum's two bytes and two zeros (R82). -/
theorem checksumWord_eq (c : BitVec 16) : checksumWord c = [c.extractLsb' 0 8, c.extractLsb' 8 8, 0, 0] := by
  rw [checksumWord, leBytes, extractByte_setWidth_low c (by decide), extractByte_setWidth_low c (by decide),
    extractByte_setWidth_high c (by decide), extractByte_setWidth_high c (by decide)]

/-- A step that shifts without capture issues that one operation, and its sequence moves on. -/
theorem step_of_shift {s : State} {q : Seq} {n k : Nat} {w : Wire} {out : List Byte} {stop : TapState}
    (hturn : engineTurn s) (hpc : s.pc = .at q n) (hm : microAt q n = some (.op w))
    (hw : s.perform w = .ok (s.shiftDR out k stop)) :
    step s = .next (State.settled { s with xport := afterOps s.xport [.dr k out stop false], pc := .at q (n + 1) }) := by
  rw [step_of_engine hturn, engineStep_wire hpc hm hw, State.advance, State.shiftDR_eq, State.onXport_pc, hpc]
  rfl

/-- Settles O8: each of the three steps is a shift of its word, and coming to rest touches neither the transport nor an
image. -/
theorem dataWordsOnWire : Obligations.DataWordsOnWire := by
  intro s q n op hturn hpc hword
  have hstep : step s = .next (State.settled { s with xport := afterOps s.xport [op], pc := .at q (n + 1) }) := by
    rcases hword with ⟨hm, rfl⟩ | ⟨hm, rfl⟩ | ⟨hm, rfl⟩
    · exact step_of_shift hturn hpc hm rfl
    · exact step_of_shift hturn hpc hm rfl
    · exact step_of_shift hturn hpc hm (by rw [State.perform, checksumWord_eq])
  exact ⟨_, hstep, rfl, State.settled_xport _, fun a => by simp⟩

end Sys2Proof.Machine
end

section
/-! PROOFS. The operations on the wire as every step leaves them: each IR shift is of the command table and has its latch clocks
at once behind it, and nothing is performed that was not queued (R53, R116, R172, R173). -/

namespace Sys2Proof.Machine

/-! The latch clocks in the hardwired program (R172). -/

/-- Latch clocks stand behind a command alone: not behind another entry, and not where a move leads to. -/
def Micro.latchPlaced (q : Seq) (n : Nat) : Micro → Bool
  | .cmd _ | .cmdByte _ => true
  | .ctl c => microAt q (n + 1) != some .latch && (c.targets q n).all fun e => microAt e.1 e.2 != some .latch
  | _ => microAt q (n + 1) != some .latch

theorem rom_latchPlaced (q : Seq) : romAll (fun n m => m.latchPlaced q n) q = true := by
  cases q with
  | single b => rfl
  | _ => decide

theorem microAt_zero_ne_latch (q : Seq) : microAt q 0 ≠ some .latch := by
  cases q with
  | single b => nofun
  | _ => decide

theorem microAt_succ_ne_latch {q : Seq} {n : Nat} {m : Micro} (hm : microAt q n = some m) (hcmd : ∀ c, m ≠ .cmd c)
    (hbyte : ∀ b, m ≠ .cmdByte b) : microAt q (n + 1) ≠ some .latch := by
  have h := romAll_at (rom_latchPlaced q) hm
  cases m with
  | cmd c => exact absurd rfl (hcmd c)
  | cmdByte b => exact absurd rfl (hbyte b)
  | ctl c =>
    simp only [Micro.latchPlaced, Bool.and_eq_true, bne_iff_ne] at h
    exact h.1
  | _ => exact bne_iff_ne.mp h

theorem target_ne_latch {q q' : Seq} {n k : Nat} {c : Ctl} (hm : microAt q n = some (.ctl c))
    (hk : (q', k) ∈ c.targets q n) : microAt q' k ≠ some .latch := by
  have h := romAll_at (rom_latchPlaced q) hm
  simp only [Micro.latchPlaced, Bool.and_eq_true, List.all_eq_true, bne_iff_ne] at h
  exact h.2 _ hk

/-- No caller resumes at latch clocks: it stands behind a call, or at the external algorithm's step. -/
theorem Frame.resumes_ne_latch {f : Frame} {q : Seq} (h : f.callsSeq q = true) : microAt f.seq f.step ≠ some .latch := by
  simp only [Frame.callsSeq, Bool.or_eq_true, Bool.and_eq_true, decide_eq_true_eq, beq_iff_eq] at h
  rcases h with ⟨⟨hpos, _⟩, hcall | ⟨⟨hcall, _⟩, _⟩⟩ | ⟨rfl, _⟩
  · have hne := microAt_succ_ne_latch hcall nofun nofun
    rwa [Nat.sub_add_cancel hpos] at hne
  · have hne := microAt_succ_ne_latch hcall nofun nofun
    rwa [Nat.sub_add_cancel hpos] at hne
  · decide

theorem caller_ne_latch {f : Frame} : ∀ {fs : List Frame} {q : Seq}, chainOk q fs = true → f ∈ fs →
    microAt f.seq f.step ≠ some .latch
  | g :: fs, q, h, hf => by
    obtain ⟨hg, hfs⟩ := chainOk_cons.mp h
    rcases List.mem_cons.mp hf with rfl | hf
    · exact Frame.resumes_ne_latch hg
    · exact caller_ne_latch hfs hf

/-! The step pointer at latch clocks. -/

theorem State.atLatch_idle {s : State} (h : s.pc = .idle) : s.atLatch = false := by
  simp [State.atLatch, h]

theorem State.atLatch_at {s : State} {q : Seq} {n : Nat} (h : s.pc = .at q n) :
    s.atLatch = true ↔ microAt q n = some .latch := by
  simp [State.atLatch, h]

theorem State.not_atLatch {s : State} {q : Seq} {n : Nat} (h : s.pc = .at q n) (hne : microAt q n ≠ some .latch) :
    s.atLatch = false :=
  Bool.eq_false_iff.mpr (mt (State.atLatch_at h).mp hne)

/-- A move leads to no latch clocks. -/
theorem State.move_not_atLatch {s : State} {q : Seq} {n : Nat} {c : Ctl} (hpc : s.pc = .at q n)
    (hm : microAt q n = some (.ctl c)) (h : s.controlOk = true) : (s.move q n c).atLatch = false := by
  obtain ⟨_, hchain⟩ := (State.controlOk_at hpc).mp h
  rcases s.move_to q n c with ⟨k, _, hk, hp, _⟩ | ⟨q', _, _, hq, hp, _, _⟩ | ⟨f, fs, _, hf, hp, _⟩ | ⟨_, hp, _⟩
  · exact State.not_atLatch hp (target_ne_latch hm hk)
  · exact State.not_atLatch hp (target_ne_latch hm hq)
  · exact State.not_atLatch hp (caller_ne_latch hchain (hf.mem List.mem_cons_self))
  · exact State.atLatch_idle hp

theorem State.moved?_not_atLatch {s t : State} (h : s.controlOk = true) (hmv : s.moved? = some t) : t.atLatch = false := by
  obtain ⟨q, n, hpc, ⟨c, hm, rfl⟩ | ⟨d, hm, _, rfl⟩⟩ := s.moved?_cases hmv
  · exact State.move_not_atLatch hpc hm h
  · exact State.not_atLatch (s.goto_pc q (n + 1)) (microAt_succ_ne_latch hm nofun nofun)

/-- Coming to rest from elsewhere, the step pointer comes to no latch clocks. -/
theorem State.settled_not_atLatch {s : State} (hc : s.controlOk = true) (h : s.atLatch = false) :
    s.settled.atLatch = false := by
  have hboth : s.settled.controlOk = true ∧ s.settled.atLatch = false :=
    State.settled_induct (fun t => t.controlOk = true ∧ t.atLatch = false)
      (fun _ _ ht hmv => ⟨State.moved?_controlOk ht.1 hmv, State.moved?_not_atLatch ht.1 hmv⟩) ⟨hc, h⟩
  exact hboth.2

/-! What one step of the engine does on the wire. -/

/-- All that a step of the engine, its host or the external algorithm does on the wire: nothing; a command's IR shift, whose
latch clocks come next; those clocks; or another operation, with no latch clocks before or behind it (R172, R173). -/
inductive WireTo (s t : State) : Prop where
  | nothing (hx : t.xport = s.xport) (hl : t.atLatch = s.atLatch)
  | shifts (c : Cmd) (hx : t.xport = s.xport.shiftIR (s.cfg.op.code c)) (hs : s.atLatch = false) (ht : t.atLatch = true)
  | latches (hx : t.xport = s.xport.toggle latchClocks) (hs : s.atLatch = true) (ht : t.atLatch = false)
  | issues (op : TOp) (hop : ∀ b, op ≠ .ir b) (hx : t.xport = s.xport.afterIssue op) (hs : s.atLatch = false)
      (ht : t.atLatch = false)

/-- A transport operation of a sequence shifts nothing into the instruction register. -/
theorem State.perform_issues {s t : State} {w : Wire} (h : s.perform w = .ok t) :
    t.xport = s.xport ∨ ∃ op, (∀ b, op ≠ .ir b) ∧ t.xport = s.xport.afterIssue op := by
  rcases State.perform_xport h with hx | ⟨op, hx⟩
  · exact .inl hx
  · refine .inr ⟨op, ?_, hx⟩
    have hissued : t.xport.issued = s.xport.issued ++ [op] := by rw [hx, Transport.afterIssue_issued]
    cases State.perform_ok h with
    | readSt _ hc | readUc _ hc | readReturn _ hc | captureId _ hc | spiRead _ _ _ _ _ hc =>
      obtain rfl : _ = op := by simpa [hc] using hissued
      nofun
    | quiet _ _ ops hi _ _ _ hops =>
      obtain rfl : ops = [op] := List.append_cancel_left (hi.symm.trans hissued)
      exact hops.2 op List.mem_cons_self

/-- A request issues nothing in its own step (R34). -/
theorem exec_request_silent {i : Instr} {s t : State} (hp : i.port ≠ .command) (h : exec i s = .next t) : Silent s t := by
  cases i with
  | program o u => exact execProgram_silent h
  | reset | readIdCode | readStatusRegister => cases h; exact s.start_silent _
  | transfer c tx rl => exact execTransfer_silent h
  | waitUntil c m x b v => exact execWaitUntil_silent h
  | _ => exact absurd rfl hp

/-- A step from elsewhere than a command or its latch clocks comes to rest at no latch clocks. -/
theorem ComesToRest.not_atLatch {s t : State} (hc : s.controlOk = true) (hs : s.atLatch = false)
    (hnext : ∀ q n, s.pc = .at q n → microAt q (n + 1) ≠ some .latch) (ht : ComesToRest s t) : t.atLatch = false := by
  obtain ⟨u, rfl, hu⟩ := ht
  refine State.settled_not_atLatch (hu.controlOk hc) ?_
  cases hu with
  | stays hpc => simpa only [State.atLatch, hpc] using hs
  | host q _ _ hpc => exact State.not_atLatch hpc (microAt_zero_ne_latch q)
  | spi q _ _ hpc => exact State.not_atLatch hpc (microAt_zero_ne_latch q)
  | passes q n _ hpc' _ _ hpc => exact State.not_atLatch hpc (hnext q n hpc')

/-- The same from an entry, which is no command and no latch clocks. -/
theorem ComesToRest.not_atLatch_at {s t : State} {q : Seq} {n : Nat} {m : Micro} (hc : s.controlOk = true)
    (hpc : s.pc = .at q n) (hm : microAt q n = some m) (hcmd : ∀ c, m ≠ .cmd c) (hbyte : ∀ b, m ≠ .cmdByte b)
    (hlatch : m ≠ .latch) (ht : ComesToRest s t) : s.atLatch = false ∧ t.atLatch = false := by
  have hs : s.atLatch = false := State.not_atLatch hpc (by simpa [hm] using hlatch)
  refine ⟨hs, ht.not_atLatch hc hs fun q' n' hpc' => ?_⟩
  cases hpc.symm.trans hpc'
  exact microAt_succ_ne_latch hm hcmd hbyte

theorem EngineTo.wireTo {s t : State} (hc : s.controlOk = true) (h : EngineTo s t) : WireTo s t := by
  have hrest := h.comesToRest hc
  cases h with
  | waits _ ht => subst ht; exact .nothing rfl rfl
  | hostWrite w _ _ _ _ ht =>
    subst ht
    exact .nothing (State.hostWrites_silent _ w).xport (by simp only [State.atLatch, (hostWrites_pc s.popHost w).1]; rfl)
  | hostRequest bs _ _ _ hpc _ hd ht =>
    have hidle : s.atLatch = false := State.atLatch_idle hpc
    have hsilent := exec_request_silent (by simp [decodeHost_port hd]) ht
    refine .nothing hsilent.xport ((hrest.not_atLatch hc hidle fun q n hpc' => ?_).trans hidle.symm)
    cases hpc.symm.trans hpc'
  | command q n c hpc hm ht =>
    subst ht
    rcases hm with hm | ⟨b, hm, _⟩
    · exact .shifts c rfl (State.not_atLatch hpc (by simp [hm])) ((State.atLatch_at rfl).mpr (latch_after_cmd hm))
    · exact .shifts c rfl (State.not_atLatch hpc (by simp [hm])) ((State.atLatch_at rfl).mpr (latch_after_cmdByte hm))
  | latch q n hpc hm ht =>
    subst ht
    have hnext : ({ s.latchCommand with pc := s.latchCommand.pc.next } : State).pc = .at q (n + 1) := congrArg Pc.next hpc
    have hcontrol : ({ s.latchCommand with pc := s.latchCommand.pc.next } : State).controlOk = true :=
      (State.controlOk_at hnext).mpr ⟨next_lt hm nofun, ((State.controlOk_at hpc).mp hc).2⟩
    exact .latches (State.settled_xport _) ((State.atLatch_at hpc).mpr hm)
      (State.settled_not_atLatch hcontrol (State.not_atLatch hnext (microAt_succ_ne_latch hm nofun nofun)))
  | wire q n w u hpc hm hu ht =>
    subst ht
    obtain ⟨hs, ht⟩ := hrest.not_atLatch_at hc hpc hm nofun nofun nofun
    rcases State.perform_issues hu with hx | ⟨op, hop, hx⟩
    · exact .nothing (u.advance_silent.xport.trans hx) (ht.trans hs.symm)
    · exact .issues op hop (u.advance_silent.xport.trans hx) hs ht
  | spiRequest q n bs _ _ _ hpc hm _ hd ht =>
    obtain ⟨hs, ht'⟩ := hrest.not_atLatch_at hc hpc hm nofun nofun nofun
    exact .nothing (exec_request_silent (by simp [decodeSpi_port hd]) ht).xport (ht'.trans hs.symm)
  | algorithmEnd q n ok _ hpc hm _ ht =>
    subst ht
    obtain ⟨hs, ht⟩ := hrest.not_atLatch_at hc hpc hm nofun nofun nofun
    exact .nothing (s.endAlgorithm_silent ok).xport (ht.trans hs.symm)
  | unsettled q n c hpc hm ht =>
    subst ht
    obtain ⟨hs, ht⟩ := hrest.not_atLatch_at hc hpc hm nofun nofun nofun
    exact .nothing s.settled_xport (ht.trans hs.symm)

/-! The operations issued (R173). -/

theorem latched_append : ∀ {l l' : List TOp}, latched l = true → latched l' = true → latched (l ++ l') = true
  | [], _, _, h' => h'
  | .ir _ :: .clk n :: rest, _, h, h' => by
    simp only [latched, Bool.and_eq_true, List.cons_append] at h ⊢
    exact ⟨h.1, latched_append (l := .clk n :: rest) h.2 h'⟩
  | .clk _ :: rest, _, h, h' | .dr _ _ _ _ :: rest, _, h, h' | .state _ :: rest, _, h, h' | .freq _ :: rest, _, h, h'
  | .flush :: rest, _, h, h' | .sleep _ :: rest, _, h, h' => latched_append (l := rest) h h'

/-- An operation that is no IR shift needs no latch clocks. -/
theorem latched_singleton {op : TOp} (hop : ∀ b, op ≠ .ir b) : latched [op] = true := by
  cases op with
  | ir b => exact absurd rfl (hop b)
  | _ => rfl

theorem endsInIr_iff {l : List TOp} : endsInIr l = true ↔ ∃ l' b, l = l' ++ [.ir b] := by
  constructor
  · intro h
    rcases List.eq_nil_or_concat l with rfl | ⟨l', op, rfl⟩
    · cases h
    · cases op with
      | ir b => exact ⟨l', b, List.concat_eq_append⟩
      | _ => simp [endsInIr] at h
  · rintro ⟨l', b, rfl⟩
    simp [endsInIr]

theorem endsInIr_append_singleton {op : TOp} (hop : ∀ b, op ≠ .ir b) (l : List TOp) : endsInIr (l ++ [op]) = false := by
  cases op with
  | ir b => exact absurd rfl (hop b)
  | _ => simp [endsInIr]

theorem inTable_of_not_ir {op : TOp} (hop : ∀ b, op ≠ .ir b) (o : OpCodes) : inTable o op = true := by
  cases op with
  | ir b => exact absurd rfl (hop b)
  | _ => rfl

/-! The invariant. -/

theorem State.wireOk_iff {s : State} : s.wireOk = true ↔
    latched s.settledOps = true ∧ endsInIr s.xport.issued = s.atLatch ∧
      s.xport.issued.all (inTable s.cfg.op) = true ∧ s.xport.performedOk := by
  simp only [State.wireOk, Bool.and_eq_true, beq_iff_eq, decide_eq_true_eq, and_assoc]
  rfl

theorem State.settledOps_elsewhere {s : State} (h : s.atLatch = false) : s.settledOps = s.xport.issued := by
  simp [State.settledOps, h]

theorem State.settledOps_atLatch {s : State} (h : s.atLatch = true) : s.settledOps = s.xport.issued.dropLast := by
  simp [State.settledOps, h]

theorem Transport.afterIssue_performedOk {x : Transport} (h : x.performedOk) (op : TOp) : (x.afterIssue op).performedOk := by
  by_cases hb : op.isBarrier = true
  · exact (Transport.afterIssue_performed hb x).le
  · simp only [Transport.afterIssue, hb, Bool.false_eq_true, if_false]
    exact Transport.issue_performedOk h op

/-- What a step does on the wire keeps the invariant of the wire. -/
theorem WireTo.wireOk {s t : State} (hcfg : t.cfg = s.cfg) (hs : s.wireOk = true) (h : WireTo s t) : t.wireOk = true := by
  obtain ⟨hlatched, hends, htable, hperformed⟩ := State.wireOk_iff.mp hs
  rw [State.wireOk_iff, hcfg]
  cases h with
  | nothing hx hl => simpa only [State.settledOps, hx, hl] using ⟨hlatched, hends, htable, hperformed⟩
  | shifts c hx hs ht =>
    rw [State.settledOps_elsewhere hs] at hlatched
    rw [State.settledOps_atLatch ht, ht, hx, Transport.shiftIR_issued]
    refine ⟨by simpa using hlatched, endsInIr_iff.mpr ⟨_, _, rfl⟩, ?_, Transport.issue_performedOk hperformed _⟩
    simpa [inTable, decodeCommandByte_isSome] using htable
  | latches hx hs ht =>
    obtain ⟨before, b, hissued⟩ := endsInIr_iff.mp (hends.trans hs)
    have hbefore : latched before = true := by simpa [State.settledOps_atLatch hs, hissued] using hlatched
    rw [State.settledOps_elsewhere ht, ht, hx, Transport.toggle_issued]
    refine ⟨?_, endsInIr_append_singleton (op := .clk latchClocks) nofun _, ?_, Transport.issue_performedOk hperformed _⟩
    · rw [hissued, List.append_assoc]
      exact latched_append hbefore rfl
    · simpa [inTable] using htable
  | issues op hop hx hs ht =>
    rw [State.settledOps_elsewhere hs] at hlatched
    rw [State.settledOps_elsewhere ht, ht, hx, Transport.afterIssue_issued]
    refine ⟨latched_append hlatched (latched_singleton hop), endsInIr_append_singleton hop _, ?_,
      Transport.afterIssue_performedOk hperformed op⟩
    rw [List.all_append, htable]
    simp [inTable_of_not_ir hop]

theorem State.perform_wireOk {s : State} (hs : s.wireOk = true) (hmoves : s.xport.moves = true) :
    (s.onXport Transport.perform).wireOk = true := by
  obtain ⟨hlatched, hends, htable, _⟩ := State.wireOk_iff.mp hs
  exact State.wireOk_iff.mpr ⟨hlatched, hends, htable, Transport.perform_performedOk hmoves⟩

/-- Settles O49: the transport performs what is queued, and each of the four things the engine can do on the wire keeps the
invariant. -/
theorem wireKept : Obligations.WireKept := by
  intro s t hc hs h
  rcases step_next h with ⟨hmoves, rfl⟩ | ⟨_, he⟩
  · exact State.perform_wireOk hs hmoves
  · exact (he.wireTo hc).wireOk (step_fixed hc h).cfg hs

end Sys2Proof.Machine
end

section
/-! PROOFS. Decoding and encoding agree: each instruction's bytes decode to it alone, and what decodes is nothing but the
encoding of a well-formed instruction; the command table with its default IR values (30_encoding.md R100, R114, R116, R131). -/

namespace Sys2Proof.Laws

open Machine (leBytes leWord)

/-! Decoding behind encoding. -/

theorem portRoundTrip (i : Instr) : PortRoundTrip.Statement i := by
  cases i with
  | opNoop => exact PortRoundTrip.opNoop
  | opEraseSram => exact PortRoundTrip.opEraseSram
  | opFinalize2 => exact PortRoundTrip.opFinalize2
  | opXferDone => exact PortRoundTrip.opXferDone
  | opFinalize1 => exact PortRoundTrip.opFinalize1
  | opReadIdcode => exact PortRoundTrip.opReadIdcode
  | opInitAddr => exact PortRoundTrip.opInitAddr
  | opReadUsercode => exact PortRoundTrip.opReadUsercode
  | opEnable => exact PortRoundTrip.opEnable
  | opSpiPassthrough => exact PortRoundTrip.opSpiPassthrough
  | opXferWrite => exact PortRoundTrip.opXferWrite
  | opDisable => exact PortRoundTrip.opDisable
  | opReload => exact PortRoundTrip.opReload
  | opExtFinal => exact PortRoundTrip.opExtFinal
  | opReadStatus => exact PortRoundTrip.opReadStatus
  | opFlashProgram => exact PortRoundTrip.opFlashProgram
  | opFlashErase => exact PortRoundTrip.opFlashErase
  | program offset unprotect => exact PortRoundTrip.program offset unprotect
  | reset => exact PortRoundTrip.reset
  | readIdCode => exact PortRoundTrip.readIdCode
  | readStatusRegister => exact PortRoundTrip.readStatusRegister
  | transfer command tx rl => exact PortRoundTrip.transfer command tx rl
  | waitUntil command mask expected bound verbose => exact PortRoundTrip.waitUntil command mask expected bound verbose

/-- Settles O1: a command's byte finds the command, as no two IR values are equal; a request's operands are read back from their
bytes. -/
theorem decodeOfEncode : Obligations.DecodeOfEncode := fun o i ho hi rest => portRoundTrip i o ho hi rest

/-! Commands: encoding behind decoding. -/

@[simp] theorem port_instr (c : Cmd) : c.instr.port = .command := by cases c <;> rfl

@[simp] theorem wf_instr (c : Cmd) : c.instr.wf = true := by cases c <;> rfl

/-- A command is its IR value (R101). -/
@[simp] theorem encode_instr (o : OpCodes) (c : Cmd) : encode o c.instr = [o.code c] := by cases c <;> rfl

/-- What decodes at the command channel is the IR value of a command (R116). -/
theorem decodeCommand_ok {o : OpCodes} {bs rest : List Byte} {i : Instr} (h : decodeCommand o bs = .ok (i, rest)) :
    ∃ c, i = c.instr ∧ bs = o.code c :: rest := by
  rcases bs with _ | ⟨b, bs⟩
  · cases h
  · rcases hd : decodeCommandByte o b with _ | c
    · simp [decodeCommand, hd] at h
    · have hcode : (o.code c == b) = true := List.find?_some (p := fun d => o.code d == b) hd
      simp only [decodeCommand, hd] at h
      cases h
      exact ⟨c, rfl, by rw [eq_of_beq hcode]⟩

/-! Operands: encoding behind decoding (log 3). -/

/-- The bytes of the word of four bytes are those four (R77, R79). -/
theorem leBytes_leWord (b0 b1 b2 b3 : Byte) : leBytes (leWord b0 b1 b2 b3) = [b0, b1, b2, b3] := by
  have h0 : (leWord b0 b1 b2 b3).extractLsb' 0 8 = b0 := BitVec.extractLsb'_append_eq_right
  have h1 : (leWord b0 b1 b2 b3).extractLsb' 8 8 = b1 :=
    (BitVec.extractLsb'_append_eq_of_le (by decide)).trans BitVec.extractLsb'_append_eq_right
  have h2 : (leWord b0 b1 b2 b3).extractLsb' 16 8 = b2 :=
    (BitVec.extractLsb'_append_eq_of_le (by decide)).trans
      ((BitVec.extractLsb'_append_eq_of_le (by decide)).trans BitVec.extractLsb'_append_eq_right)
  have h3 : (leWord b0 b1 b2 b3).extractLsb' 24 8 = b3 :=
    (BitVec.extractLsb'_append_eq_of_le (by decide)).trans
      ((BitVec.extractLsb'_append_eq_of_le (by decide)).trans BitVec.extractLsb'_append_eq_left)
  rw [leBytes, h0, h1, h2, h3]

theorem decodeFlag_ok {code b : Byte} {f : Bool} (h : decodeFlag code b = .ok f) : b = encodeFlag f := by
  unfold decodeFlag at h
  split at h
  · cases h; assumption
  · split at h
    · cases h; assumption
    · cases h

theorem decodeWriteBytes_ok {flag : Byte} {bs rest : List Byte} {tx : Option (List Byte)}
    (h : decodeWriteBytes flag bs = .ok (tx, rest)) :
    flag = encodeFlag tx.isSome ∧ bs = encodeWriteBytes tx ++ rest ∧ ∀ l, tx = some l → l.length < 2 ^ 32 := by
  unfold decodeWriteBytes at h
  split at h
  · cases h; exact ⟨by assumption, rfl, nofun⟩
  · split at h
    · split at h
      · rename_i n0 n1 n2 n3 bs
        simp only [] at h
        split at h
        · rename_i hle
          cases h
          have hlen : (bs.take (leWord n0 n1 n2 n3).toNat).length = (leWord n0 n1 n2 n3).toNat :=
            List.length_take_of_le hle
          refine ⟨by assumption, ?_, ?_⟩
          · rw [encodeWriteBytes, hlen, BitVec.ofNat_toNat, BitVec.setWidth_eq, leBytes_leWord, List.append_assoc,
              List.take_append_drop]
            rfl
          · rintro l ⟨⟩
            rw [hlen]
            exact (leWord n0 n1 n2 n3).isLt
        · cases h
      · cases h
    · cases h

theorem decodeReadLength_ok {flag : Byte} {bs rest : List Byte} {rl : Option Word}
    (h : decodeReadLength flag bs = .ok (rl, rest)) :
    flag = encodeFlag rl.isSome ∧ bs = encodeReadLength rl ++ rest := by
  unfold decodeReadLength at h
  split at h
  · cases h; exact ⟨by assumption, rfl⟩
  · split at h
    · split at h
      · cases h
        exact ⟨by assumption, by rw [encodeReadLength, leBytes_leWord]; rfl⟩
      · cases h
    · cases h

/-! Requests: encoding behind decoding. -/

theorem decodeProgram_ok {o : OpCodes} {bs rest : List Byte} {i : Instr} (h : decodeProgram bs = .ok (i, rest)) :
    i.wf = true ∧ Req.program :: bs = encode o i ++ rest := by
  unfold decodeProgram at h
  split at h
  · split at h
    · rename_i hf
      cases h
      exact ⟨rfl, by rw [encode, leBytes_leWord, decodeFlag_ok hf]; rfl⟩
    · cases h
  · cases h

theorem decodeTransfer_ok {o : OpCodes} {bs rest : List Byte} {i : Instr} (h : decodeTransfer bs = .ok (i, rest)) :
    i.wf = true ∧ Req.transfer :: bs = encode o i ++ rest := by
  unfold decodeTransfer at h
  split at h
  · split at h
    · cases h
    · rename_i hw
      split at h
      · cases h
      · rename_i tx _ _ rl _ hr
        cases h
        obtain ⟨hfw, hbs, hcount⟩ := decodeWriteBytes_ok hw
        obtain ⟨hfr, hbs'⟩ := decodeReadLength_ok hr
        constructor
        · cases tx with
          | none => rfl
          | some l => exact decide_eq_true (hcount l rfl)
        · rw [hfw, hfr, hbs, hbs', encode, List.append_assoc, List.append_assoc]
          rfl
  · cases h

theorem decodeWaitUntil_ok {o : OpCodes} {bs rest : List Byte} {i : Instr} (h : decodeWaitUntil bs = .ok (i, rest)) :
    i.wf = true ∧ Req.waitUntil :: bs = encode o i ++ rest := by
  unfold decodeWaitUntil at h
  split at h
  · split at h
    · rename_i hf
      cases h
      exact ⟨rfl, by rw [encode, leBytes_leWord, decodeFlag_ok hf]; rfl⟩
    · cases h
  · cases h

theorem decodeHost_ok {o : OpCodes} {bs rest : List Byte} {i : Instr} (h : decodeHost bs = .ok (i, rest)) :
    i.wf = true ∧ bs = encode o i ++ rest := by
  rcases bs with _ | ⟨c, bs⟩
  · cases h
  · simp only [decodeHost] at h
    split at h
    · subst c; exact decodeProgram_ok h
    · split at h
      · subst c; cases h; exact ⟨rfl, rfl⟩
      · split at h
        · subst c; cases h; exact ⟨rfl, rfl⟩
        · split at h
          · subst c; cases h; exact ⟨rfl, rfl⟩
          · cases h

theorem decodeSpi_ok {o : OpCodes} {bs rest : List Byte} {i : Instr} (h : decodeSpi bs = .ok (i, rest)) :
    i.wf = true ∧ bs = encode o i ++ rest := by
  rcases bs with _ | ⟨c, bs⟩
  · cases h
  · simp only [decodeSpi] at h
    split at h
    · subst c; exact decodeTransfer_ok h
    · split at h
      · subst c; exact decodeWaitUntil_ok h
      · cases h

/-- Settles O2, port by port: a command's byte is its IR value, and each operand of a request is the one its bytes encode. -/
theorem decodeOnlyEncodings : Obligations.DecodeOnlyEncodings := by
  intro o p bs rest i h
  cases p with
  | command =>
    obtain ⟨c, rfl, rfl⟩ := decodeCommand_ok h
    exact ⟨port_instr c, wf_instr c, by rw [encode_instr]; rfl⟩
  | host => exact ⟨Machine.decodeHost_port h, decodeHost_ok h⟩
  | spi => exact ⟨Machine.decodeSpi_port h, decodeSpi_ok h⟩

/-! The command table (R114). -/

/-- One byte at the command channel is a command exactly when it is that command's IR value. -/
theorem decode_command_iff {o : OpCodes} (ho : o.distinct = true) {b : Byte} {i : Instr} :
    decode o .command [b] = .ok (i, []) ↔ (b, i) ∈ Cmd.all.map fun c => (o.code c, c.instr) := by
  simp only [List.mem_map, Prod.mk.injEq]
  constructor
  · intro h
    have hd : decodeCommand o [b] = .ok (i, []) := h
    obtain ⟨c, rfl, hb⟩ := decodeCommand_ok hd
    exact ⟨c, by cases c <;> decide, (List.head_eq_of_cons_eq hb).symm, rfl⟩
  · rintro ⟨c, _, rfl, rfl⟩
    have hrt := roundTrip_command c o ho (wf_instr c) []
    rwa [port_instr, encode_instr] at hrt

/-- Settles O3: the table is the commands with their default IR values, which are different; the words of requests are read
out. -/
theorem tableWords : Obligations.TableWords :=
  ⟨fun _ _ => decode_command_iff (o := OpCodes.table) (by decide), fun _ => rfl, by decide, by decide, by decide, by decide,
    by decide, rfl, rfl, rfl, rfl⟩

end Sys2Proof.Laws
end

section
/-! PROOFS. Assembled operands: a page's content and the boundary-scan byte (30_encoding.md R106, R110, R117, R263). -/

namespace Sys2Proof.Machine

/-! Pages (R110, R263). -/

/-- At the start of page address 0 stands the signature. -/
theorem pageByte_signature (sig : Signature) (im : Image) (k : Nat) {i : Nat} (hi : i < 4) :
    pageByte sig im 0 k i = [sig.b0, sig.b1, sig.b2, sig.b3].getD i 0 := by
  match i, hi with
  | 0, _ | 1, _ | 2, _ | 3, _ => rfl

/-- Elsewhere stands the image's byte, or the pad byte past its end. -/
theorem pageByte_image (sig : Signature) (im : Image) {addr : Word} (k : Nat) {i : Nat} (h : ¬ (addr = 0 ∧ i < 4)) :
    pageByte sig im addr k i = if 256 * k + i < im.bitLen / 8 then im.mem.read (256 * k + i) else 0xFF := by
  have hne : ∀ j, j < 4 → ¬ (addr = 0 ∧ i = j) := fun j hj ⟨haddr, hij⟩ => h ⟨haddr, hij ▸ hj⟩
  rw [pageByte, if_neg (hne 0 (by decide)), if_neg (hne 1 (by decide)), if_neg (hne 2 (by decide)),
    if_neg (hne 3 (by decide))]
  rfl

theorem pageContent_length (sig : Signature) (im : Image) (addr : Word) (k : Nat) :
    (pageContent sig im addr k).length = 256 := by
  simp [pageContent, pageBytes]

theorem pageContent_getElem? (sig : Signature) (im : Image) (addr : Word) (k : Nat) {i : Nat} (hi : i < 256) :
    (pageContent sig im addr k)[i]? = some (pageByte sig im addr k i) := by
  have hrange : (List.range pageBytes)[i]? = some i := List.getElem?_range hi
  rw [pageContent, List.getElem?_map, hrange, Option.map_some]

/-! The boundary-scan byte (R106, R117). -/

/-- A level shifted to position `k` stands there alone. -/
theorem getLsbD_levelAt (v : Bool) (k i : Fin 8) :
    ((if v then (1 : Byte) else 0) <<< k.val).getLsbD i.val = (v && decide (i = k)) := by
  revert v k i
  decide

theorem getLsbD_oneAt (k i : Fin 8) : ((1 : Byte) <<< k.val).getLsbD i.val = decide (i = k) :=
  getLsbD_levelAt true k i

/-- Bit `i` of the boundary-scan byte: set by the mask, by data-out, or by the level of a pin that stands there. -/
theorem getLsbD_bscanByte (pm : PinMap) (cs sck di : Bool) (i : Fin 8) : (bscanByte pm cs sck di).getLsbD i.val =
    (decide (i = pm.msk) || decide (i = pm.dout) || (cs && decide (i = pm.cs)) || (sck && decide (i = pm.sck))
      || (di && decide (i = pm.di))) := by
  simp only [bscanByte, BitVec.getLsbD_or, getLsbD_oneAt, getLsbD_levelAt]

/-- Settles O20: the five positions are different, so that a pin's level stands alone at its position. -/
theorem boundaryScanByte : Obligations.BoundaryScanByte := by
  intro pm cs sck di hd
  have hnodup : [pm.sck, pm.cs, pm.di, pm.dout, pm.msk].Nodup := of_decide_eq_true hd
  simp only [List.nodup_cons, List.mem_cons, List.not_mem_nil, not_or, or_false] at hnodup
  obtain ⟨⟨hsck_cs, hsck_di, hsck_dout, hsck_msk⟩, ⟨hcs_di, hcs_dout, hcs_msk⟩, ⟨hdi_dout, hdi_msk⟩, _⟩ := hnodup
  simp only [getLsbD_bscanByte]
  refine ⟨?_, ?_, ?_, ?_, ?_, ?_⟩
  · simp [hcs_msk, hcs_dout, Ne.symm hsck_cs, hcs_di]
  · simp [hsck_msk, hsck_dout, hsck_cs, hsck_di]
  · simp [hdi_msk, hdi_dout, Ne.symm hcs_di, Ne.symm hsck_di]
  · simp
  · simp
  · intro i hi
    simp only [List.mem_cons, List.not_mem_nil, not_or, or_false] at hi
    obtain ⟨hsck, hcs, hdi, hdout, hmsk⟩ := hi
    simp [hsck, hcs, hdi, hdout, hmsk]

end Sys2Proof.Machine

/-! Outside `Machine`, where the theorem's name would be that of `Machine.pageContent`. -/

namespace Sys2Proof.Laws

open Machine

/-- Settles O9: a page lists its 256 bytes in order, the signature's first at page address 0. -/
theorem pageContent : Obligations.PageContent := by
  intro sig im addr k i hi
  refine ⟨pageContent_length sig im addr k, ?_⟩
  rw [pageContent_getElem? sig im addr k hi]
  split
  · rename_i hsig
    rw [hsig.1, pageByte_signature sig im k hsig.2]
  · rename_i hsig
    rw [pageByte_image sig im k hsig]

end Sys2Proof.Laws
end

section
/-! PROOFS. Commands: the bytes no command has, and each command's two operations (41_command_channel.md R172 to R174, R116,
R351). -/

namespace Sys2Proof.Machine

open Sys2Proof.Claims

/-! Bytes that are no instruction of their port (R116, R351). -/

/-- An instruction's bytes that do not decode are refused (log 21). -/
theorem step_of_undecodable {s : State} {p : Port} {bs : List Byte} {e : DecodeError} (hturn : engineTurn s)
    (hF : s.fetch = .bytes p bs) (hd : decode s.cfg.op p bs = .error e) : step s = .refused (.undecodable p e) := by
  simp only [step_of_engine hturn, engineStep, hF, hd]

/-- A byte that is no command's IR value decodes to no command. -/
theorem decode_unknown_command {o : OpCodes} {b : Byte} (h : ∀ c, o.code c ≠ b) :
    decode o .command [b] = .error (.unknownCommand b) := by
  have hnone : decodeCommandByte o b = none := List.find?_eq_none.mpr fun c _ => by simp [h c]
  simp only [decode, decodeCommand, hnone]

/-- Settles O5, port by port: what is fetched does not decode. -/
theorem undecodableRefused : Obligations.UndecodableRefused :=
  ⟨fun _ _ _ _ hturn hpc hin hd => step_of_undecodable hturn (State.fetch_host hpc hin) hd,
    fun _ _ _ _ _ _ hturn hpc hm hin hd => step_of_undecodable hturn (State.fetch_spi hpc hm hin) hd,
    fun _ _ _ _ hturn hpc hm hno => step_of_undecodable hturn (State.fetch_cmdByte hpc hm) (decode_unknown_command hno)⟩

/-! The two operations of a command (R172, R173). -/

/-- The IR shift as a state: the operation at the transport, the device effect left to the latch clocks. -/
theorem State.shiftCommand_eq (s : State) (c : Cmd) (e : Option DeviceEffect) : s.shiftCommand c e =
    { s with xport := afterOps s.xport [.ir (s.cfg.op.code c)], fsm := { s.fsm with latch := e } } := rfl

/-- The latch clocks as a state: the operation at the transport, the device effect brought. -/
theorem State.latchCommand_eq (s : State) : s.latchCommand =
    { s with xport := afterOps s.xport [.clk 5], device := s.device ++ s.fsm.latch.toList,
             fsm := { s.fsm with latch := none } } := rfl

/-- The latch clocks' step issues them, and its sequence moves on. -/
theorem step_of_latch {s : State} {q : Seq} {n : Nat} (hturn : engineTurn s) (hpc : s.pc = .at q n)
    (hm : microAt q n = some .latch) :
    step s = .next (State.settled
      { s with xport := afterOps s.xport [.clk 5], device := s.device ++ s.fsm.latch.toList,
               fsm := { s.fsm with latch := none }, pc := .at q (n + 1) }) := by
  rw [step_of_engine hturn, engineStep_latch hpc hm, State.advance, State.latchCommand_eq, hpc, Pc.next_at]

/-- Settles O10: a command's meaning is its IR shift, and every command of a sequence has its latch clocks behind it. -/
theorem commandsComplete : Obligations.CommandsComplete := by
  refine ⟨?_, ?_, ?_⟩
  · intro c s
    exact ⟨Laws.encode_instr s.cfg.op c, _, exec_command c s, s.shiftCommand_eq c _, fun _ => ⟨rfl, rfl⟩⟩
  · rintro q n m hm (⟨c, rfl⟩ | ⟨b, rfl⟩)
    · exact latch_after_cmd hm
    · exact latch_after_cmdByte hm
  · intro s q n hturn hpc hm
    exact ⟨_, step_of_latch hturn hpc hm, rfl, State.settled_xport _, fun a => by simp⟩

end Sys2Proof.Machine
end

section
/-! PROOFS. The SRAM stream: the image in chunks, in order, and the run that shifts them (30_encoding.md R104, R234, R235). -/

namespace Sys2Proof.Machine

open Sys2Proof.Claims

/-! The chunks of an image (R104). -/

/-- Enough chunks of `c` entries list the first `n` values of a function in order. -/
theorem flatMap_chunks {α : Type} (f : Nat → α) (c n : Nat) : ∀ m : Nat,
    ((List.range m).flatMap fun j => (List.range (min c (n - j * c))).map fun i => f (j * c + i)) =
      (List.range (min (m * c) n)).map f
  | 0 => by simp
  | m + 1 => by
    have hsplit : min ((m + 1) * c) n = min (m * c) n + min c (n - m * c) := by
      rw [Nat.add_mul, Nat.one_mul]
      omega
    have hlast : (List.range (min c (n - m * c))).map (fun i => f (m * c + i)) =
        (List.range (min c (n - m * c))).map (fun i => f (min (m * c) n + i)) := by
      refine List.map_congr_left fun i hi => ?_
      have hlt := List.mem_range.mp hi
      rw [Nat.min_eq_left (by omega : m * c ≤ n)]
    rw [List.range_succ, List.flatMap_append, flatMap_chunks f c n m, hsplit, List.range_add, List.map_append, List.map_map]
    simp only [List.flatMap_cons, List.flatMap_nil, List.append_nil, hlast]
    rfl

/-- The chunks reach the image's end. -/
theorem le_chunks_mul {s : State} (hc : 0 < s.cfg.chunkBytes) : s.bs.image.bitLen / 8 ≤ chunks s * s.cfg.chunkBytes := by
  have h := Nat.lt_div_mul_add hc (a := s.bs.image.bitLen / 8 + s.cfg.chunkBytes - 1)
  unfold chunks
  omega

theorem chunks_pos {s : State} (hlen : 0 < s.bs.image.bitLen / 8) (hc : 0 < s.cfg.chunkBytes) : 0 < chunks s :=
  Nat.div_pos (by omega) hc

/-- Every chunk starts before the image's end. -/
theorem chunk_start_lt {s : State} {j : Nat} (hj : j < chunks s) : j * s.cfg.chunkBytes < s.bs.image.bitLen / 8 := by
  have hc : 0 < s.cfg.chunkBytes := Nat.pos_of_ne_zero fun h0 => by simp [chunks, h0] at hj
  have hle : (j + 1) * s.cfg.chunkBytes ≤ s.bs.image.bitLen / 8 + s.cfg.chunkBytes - 1 :=
    (Nat.le_div_iff_mul_le hc).mp hj
  rw [Nat.succ_mul] at hle
  omega

@[simp] theorem streamOps_length (s : State) : (streamOps s).length = chunks s := by simp [streamOps]

/-- The bytes of all chunks together are the image's (R235). -/
theorem flatMap_chunkBytesOf {s : State} (hc : 0 < s.cfg.chunkBytes) :
    (List.range (chunks s)).flatMap (chunkBytesOf s) = (List.range (s.bs.image.bitLen / 8)).map s.bs.image.mem.read := by
  have h := flatMap_chunks s.bs.image.mem.read s.cfg.chunkBytes (s.bs.image.bitLen / 8) (chunks s)
  rwa [Nat.min_eq_right (le_chunks_mul hc)] at h

/-! The run (R234). -/

/-- The state before the shift of chunk `j`, the ones before it shifted. -/
def State.beforeChunk (s : State) (j : Nat) : State :=
  { s with xport := afterOps s.xport ((streamOps s).take j), chunk := BitVec.ofNat 32 j,
           fsm := { s.fsm with index := j }, pc := .at .loadSram 6 }

/-- The state behind the stream. -/
def State.behindStream (s : State) : State :=
  { s with xport := afterOps s.xport (streamOps s), chunk := BitVec.ofNat 32 (chunks s - 1),
           fsm := { s.fsm with index := chunks s - 1 }, pc := .at .loadSram 8 }

/-- The stream starts at its first chunk. -/
theorem State.settled_streamStart {s : State} (hpc : s.pc = .at .loadSram 5) : s.settled = s.beforeChunk 0 := by
  rw [State.settled_ctl hpc (c := .chunkInit) rfl]
  exact State.settled_of_rest rfl

/-- The operation of chunk `j`. -/
theorem streamOps_getElem? {s : State} {j : Nat} (hj : j < chunks s) : (streamOps s)[j]? = some
    (.dr (8 * (chunkBytesOf s j).length) (chunkBytesOf s j) (if j + 1 = chunks s then .runTestIdle else .shiftDR) false) := by
  have hrange : (List.range (chunks s))[j]? = some j := List.getElem?_range hj
  rw [streamOps, List.getElem?_map, hrange, Option.map_some]

/-- A chunk lies within the image, and its shift issues its operation. -/
theorem State.beforeChunk_shift {s : State} {j : Nat} (hj : j < chunks s) : (s.beforeChunk j).perform .chunkShift =
    .ok { s.beforeChunk j with xport := afterOps s.xport ((streamOps s).take (j + 1)) } := by
  have hread : (s.beforeChunk j).bs.image.memRead (j * s.cfg.chunkBytes) (chunkSize s.cfg s.bs.image j) =
      some (chunkBytesOf s j) := by
    refine Image.memRead_of_le ?_
    have hlt := chunk_start_lt hj
    show j * s.cfg.chunkBytes + min s.cfg.chunkBytes (s.bs.image.bitLen / 8 - j * s.cfg.chunkBytes) ≤ s.bs.image.bitLen / 8
    omega
  have hsize : chunkSize s.cfg s.bs.image j = (chunkBytesOf s j).length := by
    rw [chunkBytesOf, List.length_map, List.length_range]
    rfl
  rcases (s.beforeChunk j).chunkShift_cases with ⟨hnone, _⟩ | ⟨out, hsome, hshift⟩
  · cases hnone.symm.trans hread
  · cases hsome.symm.trans hread
    rw [State.perform, hshift, List.take_add_one, streamOps_getElem? hj, afterOps, Option.toList_some, List.foldl_append,
      ← hsize]
    rfl

/-- Behind a chunk that is not the last the next one is in hand. -/
theorem State.settled_nextChunk {s : State} (hpc : s.pc = .at .loadSram 7)
    (h : s.fsm.index + 1 < chunkCount s.cfg s.bs.image) : s.settled =
      { s with chunk := BitVec.ofNat 32 (s.fsm.index + 1), fsm := { s.fsm with index := s.fsm.index + 1 },
               pc := .at .loadSram 6 } := by
  rw [State.settled_ctl hpc (c := .chunkNext 6) rfl, State.move, if_pos h]
  exact State.settled_of_rest rfl

/-- Behind the last chunk the sequence goes on. -/
theorem State.settled_lastChunk {s : State} (hpc : s.pc = .at .loadSram 7)
    (h : ¬ s.fsm.index + 1 < chunkCount s.cfg s.bs.image) : s.settled = { s with pc := .at .loadSram 8 } := by
  rw [State.settled_ctl hpc (c := .chunkNext 6) rfl, State.move, if_neg h]
  exact State.settled_of_rest rfl

/-- The state behind the shift of chunk `j`, before the step pointer comes to rest. -/
def State.behindChunk (s : State) (j : Nat) : State :=
  { s.beforeChunk j with xport := afterOps s.xport ((streamOps s).take (j + 1)), pc := .at .loadSram 7 }

theorem engineStep_chunk {s : State} {j : Nat} (hj : j < chunks s) :
    engineStep (s.beforeChunk j) = .next (s.behindChunk j).settled :=
  engineStep_wire (q := .loadSram) (n := 6) rfl rfl (State.beforeChunk_shift hj)

/-- The step of a chunk that is not the last goes on to the next chunk. -/
theorem engineStep_nextChunk {s : State} {j : Nat} (hj : j + 1 < chunks s) :
    engineStep (s.beforeChunk j) = .next (s.beforeChunk (j + 1)) := by
  rw [engineStep_chunk (Nat.lt_of_succ_lt hj), State.settled_nextChunk (s := s.behindChunk j) rfl hj]
  rfl

/-- The step of the last chunk leaves the stream. -/
theorem engineStep_lastChunk {s : State} (hpos : 0 < chunks s) :
    engineStep (s.beforeChunk (chunks s - 1)) = .next s.behindStream := by
  have hlast : chunks s - 1 + 1 = chunks s := Nat.sub_add_cancel hpos
  have htake : (streamOps s).take (chunks s - 1 + 1) = streamOps s := List.take_of_length_le (by simp [hlast])
  rw [engineStep_chunk (by omega),
    State.settled_lastChunk (s := s.behindChunk (chunks s - 1)) rfl (show ¬ chunks s - 1 + 1 < chunks s by omega),
    State.behindChunk, htake]
  rfl

/-- From chunk `j` on the engine shifts the chunks that are left. -/
theorem engineSteps_stream {s : State} : ∀ {k j : Nat}, j + k + 1 = chunks s →
    engineSteps (k + 1) (s.beforeChunk j) = .next s.behindStream
  | 0, j, h => by
    obtain rfl : j = chunks s - 1 := by omega
    rw [engineSteps_succ (engineStep_lastChunk (by omega))]
    rfl
  | k + 1, j, h => by
    rw [engineSteps_succ (engineStep_nextChunk (by omega))]
    exact engineSteps_stream (by omega)

/-- Settles O28: one step for each chunk, and the chunks are the image cut in order. -/
theorem streamRun : Obligations.StreamRun := by
  intro s hpc hlen hc
  have hpos := chunks_pos hlen hc
  have hrun : engineSteps (chunks s - 1 + 1) s.settled = .next s.behindStream := by
    rw [State.settled_streamStart hpc]
    exact engineSteps_stream (by omega)
  exact ⟨⟨exists_run_of_engineSteps hrun, fun a => by simp⟩, streamOps_length s, flatMap_chunkBytesOf hc⟩

end Sys2Proof.Machine
end

section
/-! PROOFS. The status decoder: which flags a word decodes to, and the flag test three ways (40_status_decoder.md R151 to
R153). -/

namespace Sys2Proof.Machine

/-! The flags and their bits (R43, R150). -/

/-- Every flag has its place among the names. -/
theorem mem_flagNames (f : Flag) : f ∈ flagNames := by cases f <;> decide

/-- The status bits are bits 0 to 18. -/
theorem Flag.pos_lt (f : Flag) : f.pos < 19 := by cases f <;> decide

/-- A flag's mask is the power of two of its bit. -/
theorem Flag.mask_eq_twoPow (f : Flag) : f.mask = BitVec.twoPow 32 f.pos := rfl

/-- A flag's mask has the flag's own bit set. -/
theorem Flag.getLsbD_mask (f : Flag) : f.mask.getLsbD f.pos = true := by
  have hpos : f.pos < 32 := f.pos_lt.trans (by decide)
  simp [Flag.mask_eq_twoPow, hpos]

theorem Flag.mask_ne_zero (f : Flag) : f.mask ≠ 0#32 := by
  intro hzero
  simpa [hzero] using f.getLsbD_mask

/-! The decoder (R151, R152). -/

/-- The decoder lists the flags whose test succeeds. -/
@[simp] theorem mem_decodeStatus {w : Word} {f : Flag} : f ∈ decodeStatus w ↔ flagSet w f = true := by
  simp [decodeStatus, mem_flagNames]

/-- Bits 19 to 31 do not contribute (R44). -/
theorem decodeStatus_congr {w v : Word} (h : ∀ i, i < 19 → w.getLsbD i = v.getLsbD i) :
    decodeStatus w = decodeStatus v :=
  List.filter_congr fun f _ => h f.pos f.pos_lt

/-! The masked comparison (R153, R177). -/

/-- Masked with a flag's mask a word leaves that mask or nothing, as the flag is set or clear. -/
theorem and_mask (w : Word) (f : Flag) : w &&& f.mask = if flagSet w f then f.mask else 0#32 :=
  BitVec.and_twoPow w f.pos

/-- The comparison for a set flag. -/
theorem matchesMask_mask_mask (w : Word) (f : Flag) : matchesMask w f.mask f.mask = true ↔ flagSet w f = true := by
  rw [matchesMask, and_mask, beq_iff_eq]
  cases flagSet w f with
  | true => simp
  | false => simpa using f.mask_ne_zero.symm

/-- The comparison for a clear flag. -/
theorem matchesMask_mask_zero (w : Word) (f : Flag) : matchesMask w f.mask 0 = true ↔ flagSet w f = false := by
  rw [matchesMask, and_mask, beq_iff_eq]
  cases flagSet w f with
  | true => simpa using f.mask_ne_zero
  | false => simp

/-- Settles O6: the table pairs each flag with its bit, so each of its rows is membership in the decoder's list. -/
theorem statusDecodeExact : Obligations.StatusDecodeExact := by
  refine ⟨fun w v => decodeStatus_congr, ?table, fun w f =>
    ⟨mem_decodeStatus.symm, rfl, matchesMask_mask_mask w f, matchesMask_mask_zero w f⟩⟩
  case table =>
    intro w p hp
    have hrow : p ∈ flagNames.map fun f => (f.pos, f) := hp
    obtain ⟨f, -, rfl⟩ := List.mem_map.mp hrow
    exact mem_decodeStatus

end Sys2Proof.Machine
end

section
/-! PROOFS. The clocked wait (41_command_channel.md R178): its operation, and that it stays in a stable TAP state. -/

namespace Sys2Proof.Machine

open Sys2Proof.Claims

/-- A clocked wait issues what `CLKUS` lists at the frequency in force, and nothing else changes (R120, R178). -/
theorem State.clockFor_eq_afterOps (s : State) (us : Word) :
    s.clockFor us = { s with xport := afterOps s.xport (clkUsOps s.xport.freq us) } := by
  by_cases hzero : clockCount s.xport.freq us = 0
  · have hops : clkUsOps s.xport.freq us = [] := if_pos hzero
    rw [State.clockFor, if_pos hzero, hops]
    rfl
  · have hops : clkUsOps s.xport.freq us = [.clk (clockCount s.xport.freq us)] := if_neg hzero
    rw [State.clockFor, if_neg hzero, hops]
    rfl

/-- The TAP states in which Toggle stays (R170). -/
theorem stableTap_iff {t : TapState} :
    stableTap t = true ↔ t ∈ [TapState.runTestIdle, .shiftDR, .shiftIR, .pauseDR, .pauseIR] := by
  cases t <;> decide

theorem toggledTap_of_stable {t : TapState} (h : stableTap t = true) (n : Nat) : toggledTap t n = t :=
  if_pos h

/-- A clocked wait stays in a stable TAP state, whether it toggles or not. -/
theorem State.clockFor_tap {s : State} (h : stableTap s.xport.tap = true) (us : Word) :
    (s.clockFor us).xport.tap = s.xport.tap := by
  rw [State.clockFor_eq, State.onXport_xport]
  split
  · rfl
  · exact toggledTap_of_stable h _

/-- A clocked wait's step issues its operation, and its sequence moves on. -/
theorem step_of_clkFor {s : State} {q : Seq} {n : Nat} {d : Delay} (hturn : engineTurn s) (hpc : s.pc = .at q n)
    (hm : microAt q n = some (.op (.clkFor d))) : step s = .next (State.settled
      { s with xport := afterOps s.xport (clkUsOps s.xport.freq (s.delayUs d)), pc := .at q (n + 1) }) := by
  rw [step_of_engine hturn, engineStep_wire hpc hm rfl, State.clockFor_eq_afterOps, State.advance]
  simp only [hpc, Pc.next_at]

/-- Settles O34: the wait's one operation, its step, and R178's formula at the frequencies of the two flash paths. -/
theorem clockForDuration : Obligations.ClockForDuration :=
  ⟨fun s us => ⟨s.clockFor_eq_afterOps us, fun htap => State.clockFor_tap (stableTap_iff.mpr htap) us⟩,
    fun _ _ _ _ => step_of_clkFor, rfl, rfl⟩

end Sys2Proof.Machine
end

section
/-! PROOFS. The instruction register (R175, R176, R318, R405): no entry of the hardwired program relies on more than the command
before it leaves there, so that every step keeps what the captures rely on; and the one step that writes ST (R37). -/

namespace Sys2Proof.Machine

/-! What the entries rely on (R33). -/

/-- Where the instruction register holds what one entry relies on, it holds what another does: that one relies on none, or on
each command the first allows. -/
def irServes (here : Option (List Cmd)) : Option (List Cmd) → Bool
  | none => true
  | some l' => here.any fun l => l.all l'.contains

/-- An entry that shifts no command leads to none that relies on more than itself: neither behind it nor at a move's targets. -/
def Micro.keepsIr (o : OpCodes) (q : Seq) (n : Nat) : Micro → Bool
  | .cmd _ | .cmdByte _ => true
  | .ctl c => irServes (irAllowed o q n) (irAllowed o q (n + 1))
      && (c.targets q n).all fun e => irServes (irAllowed o q n) (irAllowed o e.1 e.2)
  | _ => irServes (irAllowed o q n) (irAllowed o q (n + 1))

theorem rom_keepsIr (o : OpCodes) (q : Seq) : romAll (fun n m => m.keepsIr o q n) q = true := by
  cases q <;> rfl

/-- The sequences that run for the external algorithm (R296, R311). -/
def Seq.servesAlgorithm (q : Seq) : Bool := q.isSpiLevel || q.isEncoding

/-- The one command of the sequences that run for the external algorithm is Encoding B's, and they call none but one another
(R318). -/
def Micro.servesAlgorithm (q : Seq) (n : Nat) : Micro → Bool
  | .cmd c => !q.servesAlgorithm || c == .spiPassthrough
  | .cmdByte _ => !q.servesAlgorithm
  | .ctl c => !(q.servesAlgorithm && c.calls) || (c.targets q n).all fun e => e.1.servesAlgorithm
  | _ => true

theorem rom_servesAlgorithm (q : Seq) : romAll (fun n m => m.servesAlgorithm q n) q = true := by
  cases q with
  | single b => rfl
  | _ => decide

theorem irAllowed_zero (o : OpCodes) (q : Seq) : irAllowed o q 0 = none := by
  cases q <;> rfl

/-! The instruction register at an entry. -/

theorem State.irOkAt_iff {s : State} {q : Seq} {n : Nat} : s.irOkAt q n = true ↔
    ∀ l, irAllowed s.cfg.op q n = some l → ∃ c ∈ l, s.xport.ir = s.cfg.op.code c := by
  unfold State.irOkAt
  split
  · rename_i l hl
    simp [hl]
  · rename_i hnone
    simp [hnone]

theorem State.irOkAt_of_none {s : State} {q : Seq} {n : Nat} (h : irAllowed s.cfg.op q n = none) : s.irOkAt q n = true := by
  simp [State.irOkAt, h]

/-- An entry relies on nothing but the instruction register and the IR values. -/
theorem State.irOkAt_congr {s t : State} (hir : t.xport.ir = s.xport.ir) (hcfg : t.cfg = s.cfg) (q : Seq) (n : Nat) :
    t.irOkAt q n = s.irOkAt q n := by
  simp only [State.irOkAt, hir, hcfg]

theorem State.irOkAt_of_serves {s : State} {q q' : Seq} {n n' : Nat}
    (hserves : irServes (irAllowed s.cfg.op q n) (irAllowed s.cfg.op q' n') = true) (h : s.irOkAt q n = true) :
    s.irOkAt q' n' = true := by
  rw [State.irOkAt_iff] at h ⊢
  intro l' hl'
  simp only [hl', irServes, Option.any_eq_true, List.all_eq_true, List.contains_iff_mem] at hserves
  obtain ⟨l, hl, hsub⟩ := hserves
  obtain ⟨c, hc, hir⟩ := h l hl
  exact ⟨c, hsub c hc, hir⟩

/-- Behind an entry that is no command the instruction register holds what is relied on there. -/
theorem State.irOkAt_succ {s : State} {q : Seq} {n : Nat} {m : Micro} (hm : microAt q n = some m) (hcmd : ∀ c, m ≠ .cmd c)
    (hbyte : ∀ b, m ≠ .cmdByte b) (h : s.irOkAt q n = true) : s.irOkAt q (n + 1) = true := by
  have hkeeps := romAll_at (rom_keepsIr s.cfg.op q) hm
  cases m with
  | cmd c => exact absurd rfl (hcmd c)
  | cmdByte b => exact absurd rfl (hbyte b)
  | ctl c =>
    simp only [Micro.keepsIr, Bool.and_eq_true] at hkeeps
    exact State.irOkAt_of_serves hkeeps.1 h
  | _ => exact State.irOkAt_of_serves hkeeps h

/-- Where a move leads to the instruction register holds what is relied on there. -/
theorem State.irOkAt_target {s : State} {q q' : Seq} {n k : Nat} {c : Ctl} (hm : microAt q n = some (.ctl c))
    (hk : (q', k) ∈ c.targets q n) (h : s.irOkAt q n = true) : s.irOkAt q' k = true := by
  have hkeeps := romAll_at (rom_keepsIr s.cfg.op q) hm
  simp only [Micro.keepsIr, Bool.and_eq_true, List.all_eq_true] at hkeeps
  exact State.irOkAt_of_serves (hkeeps.2 _ hk) h

theorem State.irOk_iff {s : State} : s.irOk = true ↔
    (∀ q n, s.pc = .at q n → s.irOkAt q n = true) ∧ ∀ f ∈ s.callers, s.irOkAt f.seq f.step = true := by
  rcases hpc : s.pc with _ | ⟨q, n⟩ <;> simp [State.irOk, hpc]

/-! A move (R33). -/

theorem State.move_irOk {s : State} {q : Seq} {n : Nat} {c : Ctl} (hpc : s.pc = .at q n)
    (hm : microAt q n = some (.ctl c)) (h : s.irOk = true) : (s.move q n c).irOk = true := by
  obtain ⟨hhere, hcallers⟩ := State.irOk_iff.mp h
  have hmove := s.move_unmoved q n c
  simp only [State.irOk_iff, State.irOkAt_congr (congrArg Transport.ir hmove.xport) hmove.cfg]
  rcases s.move_to q n c with ⟨k, _, hk, hp, hcs⟩ | ⟨q', pass, _, hq, hp, hcs, _⟩ | ⟨f, fs, _, hf, hp, hcs⟩ |
    ⟨_, hp, hcs⟩ <;> rw [hp, hcs]
  · refine ⟨?_, hcallers⟩
    rintro _ _ ⟨⟩
    exact State.irOkAt_target hm hk (hhere q n hpc)
  · refine ⟨?_, ?_⟩
    · rintro _ _ ⟨⟩
      exact State.irOkAt_of_none (irAllowed_zero _ q')
    · intro f hf
      rcases List.mem_cons.mp hf with rfl | hf
      · exact State.irOkAt_succ hm nofun nofun (hhere q n hpc)
      · exact hcallers f hf
  · refine ⟨?_, fun g hg => hcallers g (hf.mem (List.mem_cons_of_mem f hg))⟩
    rintro _ _ ⟨⟩
    exact hcallers f (hf.mem List.mem_cons_self)
  · exact ⟨nofun, nofun⟩

theorem State.moved?_irOk {s t : State} (h : s.irOk = true) (hmv : s.moved? = some t) : t.irOk = true := by
  obtain ⟨q, n, hpc, ⟨c, hm, rfl⟩ | ⟨d, hm, _, rfl⟩⟩ := s.moved?_cases hmv
  · exact State.move_irOk hpc hm h
  · obtain ⟨hhere, hcallers⟩ := State.irOk_iff.mp h
    refine State.irOk_iff.mpr ⟨?_, hcallers⟩
    rintro _ _ ⟨⟩
    exact State.irOkAt_succ hm nofun nofun (hhere q n hpc)

theorem State.settled_irOk {s : State} (h : s.irOk = true) : s.settled.irOk = true :=
  State.settled_induct (fun t => t.irOk = true) (fun _ _ => State.moved?_irOk) h

/-! A step that shifts no command. -/

/-- Setting the step pointer keeps the invariant, where the instruction register stays and no command is passed. -/
theorem Enters.irOk {s u : State} (hir : u.xport.ir = s.xport.ir) (hcfg : u.cfg = s.cfg)
    (hnext : ∀ q n, s.pc = .at q n → microAt q (n + 1) ≠ some .latch) (h : s.irOk = true) (he : Enters s u) :
    u.irOk = true := by
  obtain ⟨hhere, hcallers⟩ := State.irOk_iff.mp h
  simp only [State.irOk_iff, State.irOkAt_congr hir hcfg]
  cases he with
  | stays hpc hcs _ => rw [hpc, hcs]; exact ⟨hhere, hcallers⟩
  | host q _ _ hpc hcs _ =>
    rw [hpc, hcs]
    refine ⟨?_, nofun⟩
    rintro _ _ ⟨⟩
    exact State.irOkAt_of_none (irAllowed_zero _ q)
  | spi q _ halg hpc hcs _ =>
    rw [hpc, hcs]
    refine ⟨?_, ?_⟩
    · rintro _ _ ⟨⟩
      exact State.irOkAt_of_none (irAllowed_zero _ q)
    · intro f hf
      rcases List.mem_cons.mp hf with rfl | hf
      · exact hhere _ _ halg
      · exact hcallers f hf
  | passes q n m hs hm _ hpc hcs _ =>
    rw [hpc, hcs]
    refine ⟨?_, hcallers⟩
    rintro _ _ ⟨⟩
    refine State.irOkAt_succ hm ?_ ?_ (hhere q n hs)
    · rintro c rfl
      exact hnext q n hs (latch_after_cmd hm)
    · rintro b rfl
      exact hnext q n hs (latch_after_cmdByte hm)

theorem ComesToRest.irOk {s t : State} (hir : t.xport.ir = s.xport.ir) (hcfg : t.cfg = s.cfg)
    (hnext : ∀ q n, s.pc = .at q n → microAt q (n + 1) ≠ some .latch) (h : s.irOk = true) (ht : ComesToRest s t) :
    t.irOk = true := by
  obtain ⟨u, rfl, hu⟩ := ht
  rw [State.settled_xport] at hir
  rw [State.settled_cfg] at hcfg
  exact State.settled_irOk (hu.irOk hir hcfg hnext h)

/-! A command's IR shift (R172). -/

/-- Behind a call nothing is relied on. -/
def Micro.resumesFree (o : OpCodes) (q : Seq) (n : Nat) : Micro → Bool
  | .ctl c => !c.calls || (irAllowed o q (n + 1)).isNone
  | _ => true

theorem rom_resumesFree (o : OpCodes) (q : Seq) : romAll (fun n m => m.resumesFree o q n) q = true := by
  cases q <;> rfl

theorem irAllowed_behind_call {o : OpCodes} {q : Seq} {n : Nat} {c : Ctl} (hm : microAt q n = some (.ctl c))
    (hc : c.calls = true) : irAllowed o q (n + 1) = none := by
  have h := romAll_at (rom_resumesFree o q) hm
  simpa [Micro.resumesFree, hc] using h

/-- A caller relies on no command, unless it is the external algorithm's step, where a request of the algorithm runs. -/
theorem Frame.irAllowed_cases {f : Frame} {q : Seq} (h : f.callsSeq q = true) (o : OpCodes) :
    irAllowed o f.seq f.step = none ∨ f = ⟨.externalFlash, algorithmStep, false⟩ ∧ q.servesAlgorithm = true := by
  simp only [Frame.callsSeq, Bool.or_eq_true, Bool.and_eq_true, decide_eq_true_eq, beq_iff_eq] at h
  rcases h with ⟨⟨hpos, _⟩, hcall | ⟨⟨hcall, _⟩, _⟩⟩ | ⟨rfl, hspi⟩
  · have hnone := irAllowed_behind_call (o := o) hcall rfl
    rw [Nat.sub_add_cancel hpos] at hnone
    exact .inl hnone
  · have hnone := irAllowed_behind_call (o := o) hcall rfl
    rw [Nat.sub_add_cancel hpos] at hnone
    exact .inl hnone
  · exact .inr ⟨rfl, by simp [Seq.servesAlgorithm, hspi]⟩

/-- What a sequence that serves the algorithm calls serves it too. -/
theorem Frame.servesAlgorithm {f : Frame} {q : Seq} (h : f.callsSeq q = true) (hf : f.seq.servesAlgorithm = true) :
    q.servesAlgorithm = true := by
  rcases f.callsSeq_cases h with ⟨_, n, c, hm, hc, hq⟩ | ⟨_, hspi⟩
  · have hserves := romAll_at (rom_servesAlgorithm f.seq) hm
    simp only [Micro.servesAlgorithm, hf, hc, Bool.and_self, Bool.not_true, Bool.false_or, List.all_eq_true] at hserves
    exact hserves _ hq
  · simp [Seq.servesAlgorithm, hspi]

/-- In a chain of callers no command is relied on, unless the sequence runs for the external algorithm, whose step alone
relies on one. -/
theorem caller_irAllowed (o : OpCodes) {f : Frame} : ∀ {fs : List Frame} {q : Seq}, chainOk q fs = true → f ∈ fs →
    irAllowed o f.seq f.step = none ∨ f = ⟨.externalFlash, algorithmStep, false⟩ ∧ q.servesAlgorithm = true
  | g :: fs, q, h, hf => by
    obtain ⟨hg, hfs⟩ := chainOk_cons.mp h
    rcases List.mem_cons.mp hf with rfl | hf
    · exact Frame.irAllowed_cases hg o
    · exact (caller_irAllowed o hfs hf).imp_right fun ⟨halg, hserves⟩ => ⟨halg, Frame.servesAlgorithm hg hserves⟩

/-- At a command's latch clocks the command itself is relied on. -/
theorem irAllowed_latch {o : OpCodes} {q : Seq} {n : Nat} {c : Cmd}
    (hm : microAt q n = some (.cmd c) ∨ ∃ b, microAt q n = some (.cmdByte b) ∧ decodeCommandByte o b = some c) :
    irAllowed o q (n + 1) = some [c] := by
  rcases hm with hm | ⟨b, hm, hd⟩
  · simp [irAllowed, latch_after_cmd hm, cmdBefore, hm]
  · simp [irAllowed, latch_after_cmdByte hm, cmdBefore, hm, hd]

/-- A sequence that serves the algorithm shifts Encoding B's command alone (R318). -/
theorem eq_spiPassthrough {o : OpCodes} {q : Seq} {n : Nat} {c : Cmd} (hq : q.servesAlgorithm = true)
    (hm : microAt q n = some (.cmd c) ∨ ∃ b, microAt q n = some (.cmdByte b) ∧ decodeCommandByte o b = some c) :
    c = .spiPassthrough := by
  rcases hm with hm | ⟨b, hm, _⟩
  · simpa [Micro.servesAlgorithm, hq] using romAll_at (rom_servesAlgorithm q) hm
  · simpa [Micro.servesAlgorithm, hq] using romAll_at (rom_servesAlgorithm q) hm

/-- A command's IR shift leaves its command where it is relied on: at its latch clocks, and at the external algorithm's step
where it is Encoding B's. -/
theorem shiftCommand_irOk {s : State} {q : Seq} {n : Nat} {c : Cmd} (hc : s.controlOk = true) (hpc : s.pc = .at q n)
    (hm : microAt q n = some (.cmd c) ∨ ∃ b, microAt q n = some (.cmdByte b) ∧ decodeCommandByte s.cfg.op b = some c)
    (e : Option DeviceEffect) : (({ s with pc := .at q (n + 1) } : State).shiftCommand c e).irOk = true := by
  obtain ⟨_, hchain⟩ := (State.controlOk_at hpc).mp hc
  refine State.irOk_iff.mpr ⟨?_, ?_⟩
  · rintro _ _ ⟨⟩
    refine State.irOkAt_iff.mpr fun l hl => ?_
    cases hl.symm.trans (irAllowed_latch hm)
    exact ⟨c, List.mem_singleton_self c, rfl⟩
  · intro f hf
    rcases caller_irAllowed s.cfg.op hchain hf with hnone | ⟨rfl, hserves⟩
    · exact State.irOkAt_of_none hnone
    · obtain rfl := eq_spiPassthrough hserves hm
      refine State.irOkAt_iff.mpr fun l hl => ?_
      cases hl
      exact ⟨.spiPassthrough, by decide, rfl⟩

/-! The machine's step. -/

/-- A transport operation of a sequence leaves the instruction register. -/
theorem State.perform_ir {s t : State} {w : Wire} (h : s.perform w = .ok t) : t.xport.ir = s.xport.ir := by
  cases State.perform_ok h with
  | readSt _ hx | readUc _ hx | readReturn _ hx | captureId _ hx | spiRead _ _ _ _ _ hx => rw [hx, Transport.capture_ir]
  | quiet _ _ _ _ hir => exact hir

/-- A step from an entry that is no command leads to no latch clocks. -/
theorem State.next_ne_latch {s : State} {q : Seq} {n : Nat} {m : Micro} (hpc : s.pc = .at q n)
    (hm : microAt q n = some m) (hcmd : ∀ c, m ≠ .cmd c) (hbyte : ∀ b, m ≠ .cmdByte b) (q' : Seq) (n' : Nat)
    (hpc' : s.pc = .at q' n') : microAt q' (n' + 1) ≠ some .latch := by
  cases hpc.symm.trans hpc'
  exact microAt_succ_ne_latch hm hcmd hbyte

theorem EngineTo.irOk {s t : State} (hc : s.controlOk = true) (hcfg : t.cfg = s.cfg) (h : s.irOk = true)
    (he : EngineTo s t) : t.irOk = true := by
  have hrest := he.comesToRest hc
  cases he with
  | waits _ ht => rw [ht]; exact h
  | command q n c hpc hm ht => rw [ht]; exact shiftCommand_irOk hc hpc hm _
  | hostWrite w _ hpc _ _ ht =>
    have hir : t.xport.ir = s.xport.ir := by rw [ht, (State.hostWrites_silent _ w).xport]; rfl
    exact hrest.irOk hir hcfg (fun q n hpc' => nomatch hpc.symm.trans hpc') h
  | hostRequest _ _ _ _ hpc _ hd ht =>
    have hsilent := exec_request_silent (by simp [decodeHost_port hd]) ht
    have hir : t.xport.ir = s.xport.ir := congrArg Transport.ir hsilent.xport
    exact hrest.irOk hir hcfg (fun q n hpc' => nomatch hpc.symm.trans hpc') h
  | latch q n hpc hm ht =>
    have hir : t.xport.ir = s.xport.ir := by rw [ht, s.latchCommand.advance_silent.xport]; rfl
    exact hrest.irOk hir hcfg (State.next_ne_latch hpc hm nofun nofun) h
  | wire q n w u hpc hm hu ht =>
    have hir : t.xport.ir = s.xport.ir := by rw [ht, u.advance_silent.xport, State.perform_ir hu]
    exact hrest.irOk hir hcfg (State.next_ne_latch hpc hm nofun nofun) h
  | spiRequest q n _ _ _ _ hpc hm _ hd ht =>
    have hsilent := exec_request_silent (by simp [decodeSpi_port hd]) ht
    have hir : t.xport.ir = s.xport.ir := congrArg Transport.ir hsilent.xport
    exact hrest.irOk hir hcfg (State.next_ne_latch hpc hm nofun nofun) h
  | algorithmEnd q n ok _ hpc hm _ ht =>
    have hir : t.xport.ir = s.xport.ir := by rw [ht, (s.endAlgorithm_silent ok).xport]
    exact hrest.irOk hir hcfg (State.next_ne_latch hpc hm nofun nofun) h
  | unsettled q n c hpc hm ht =>
    have hir : t.xport.ir = s.xport.ir := by rw [ht, s.settled_xport]
    exact hrest.irOk hir hcfg (State.next_ne_latch hpc hm nofun nofun) h

theorem step_irOk {s t : State} (hc : s.controlOk = true) (hs : s.irOk = true) (h : step s = .next t) :
    t.irOk = true := by
  rcases step_next h with ⟨_, rfl⟩ | ⟨_, he⟩
  · exact hs
  · exact he.irOk hc (step_fixed hc h).cfg hs

/-! The step that writes ST (R37, R176). -/

/-- Only a step that stands at a status read's capture writes ST. -/
theorem ComesToRest.at_readSt {s t : State} (h : ComesToRest s t) (hst : t.st ≠ s.st) :
    ∃ q n, s.pc = .at q n ∧ microAt q n = some (.op .readSt) := by
  obtain ⟨u, rfl, hu⟩ := h
  rw [State.settled_st] at hst
  cases hu with
  | stays _ _ hsame | host _ _ _ _ _ hsame | spi _ _ _ _ _ hsame => exact absurd hsame hst
  | passes q n m hs hm _ _ _ hwrites =>
    rcases hwrites with ⟨rfl, _⟩ | ⟨_, hsame⟩
    · exact ⟨q, n, hs, hm⟩
    · exact absurd hsame hst

/-- A step that writes ST is a status read's capture. -/
theorem step_writes_st {s t : State} (hc : s.controlOk = true) (h : step s = .next t) (hst : t.st ≠ s.st) :
    ∃ q n, s.pc = .at q n ∧ microAt q n = some (.op .readSt) ∧ t = s.readSt.advance := by
  rcases step_next h with ⟨_, rfl⟩ | ⟨hturn, he⟩
  · exact absurd rfl hst
  · obtain ⟨q, n, hpc, hm⟩ := (he.comesToRest hc).at_readSt hst
    have hstep : step s = .next s.readSt.advance := (step_of_engine hturn).trans (engineStep_wire hpc hm rfl)
    exact ⟨q, n, hpc, hm, Host.Outcome.next.inj (h.symm.trans hstep)⟩

/-- At a status read's capture the instruction register holds the status read's command. -/
theorem ir_of_readSt {s : State} {q : Seq} {n : Nat} (hs : s.irOk = true) (hpc : s.pc = .at q n)
    (hm : microAt q n = some (.op .readSt)) : s.xport.ir = s.cfg.op.code .readStatus := by
  obtain ⟨hhere, _⟩ := State.irOk_iff.mp hs
  have hallowed : irAllowed s.cfg.op q n = some [.readStatus] := by simp [irAllowed, hm]
  obtain ⟨c, hc, hir⟩ := State.irOkAt_iff.mp (hhere q n hpc) _ hallowed
  rwa [List.mem_singleton.mp hc] at hir

/-- Settles O54: commands and every other step keep what is relied on, and the step that writes ST is a capture behind the
status read's command. -/
theorem instructionRegisterKept : Obligations.InstructionRegisterKept := by
  refine ⟨fun s t => step_irOk, ?_⟩
  intro s t hc hs h hst
  obtain ⟨q, n, hpc, hm, rfl⟩ := step_writes_st hc h hst
  have hx : s.readSt.advance.xport = s.xport.capture readProbe 32 .runTestIdle := s.readSt.advance_silent.xport
  have hword : s.readSt.advance.st = some s.answerWord := State.settled_st _
  rw [hx]
  exact ⟨hword, ir_of_readSt hs hpc hm, rfl, rfl⟩

end Sys2Proof.Machine
end

section
/-! PROOFS. Runs of the engine up to how much of the queue is performed, which the machine matches (R10, R53): those of a command
and of a status read (R172, R175, R176). -/

namespace Sys2Proof.Machine

open Sys2Proof.Claims

/-- A run of the engine leads from `s` to `t`, up to how much of its queue the transport has performed by then (R53). -/
def EngineReaches (s t : State) : Prop := ∃ k p, engineSteps k s = .next (t.withPerformed p)

theorem EngineReaches.refl (s : State) : EngineReaches s s := ⟨0, s.xport.performed, rfl⟩

theorem EngineReaches.step {s t : State} (h : engineStep s = .next t) : EngineReaches s t :=
  ⟨1, t.xport.performed, engineSteps_succ h 0⟩

/-- A step that leaves another part of the queue performed, as a barrier does. -/
theorem EngineReaches.step_withPerformed {s t : State} {p : Nat} (h : engineStep s = .next (t.withPerformed p)) :
    EngineReaches s t :=
  ⟨1, p, engineSteps_succ h 0⟩

/-- A run of the engine is the same whatever part of the queue is performed, but for that part. -/
theorem engineSteps_withPerformed {t : State} : ∀ {k : Nat} {s : State}, engineSteps k s = .next t → ∀ p,
    ∃ p', engineSteps k (s.withPerformed p) = .next (t.withPerformed p')
  | 0, s, h, p => by
    cases h
    exact ⟨p, rfl⟩
  | k + 1, s, h, p => by
    rcases hs : engineStep s with u | r | r <;> simp only [engineSteps, stepsOf, hs] at h
    · obtain ⟨p1, h1⟩ := engineStep_withPerformed hs p
      obtain ⟨p2, h2⟩ := engineSteps_withPerformed (k := k) h p1
      exact ⟨p2, (engineSteps_succ h1 k).trans h2⟩
    · cases h
    · cases h

theorem EngineReaches.trans {s t u : State} (h : EngineReaches s t) (h' : EngineReaches t u) : EngineReaches s u := by
  obtain ⟨k, p, hk⟩ := h
  obtain ⟨j, p1, hj⟩ := h'
  obtain ⟨p2, hj⟩ := engineSteps_withPerformed hj p
  exact ⟨k + j, p2, (stepsOf_add j hk).trans hj⟩

/-- A run of the engine that keeps the images is matched by a run of the machine. -/
theorem EngineReaches.reaches {s t : State} (h : EngineReaches s t) (himages : imagesKept s t) : reaches s t := by
  obtain ⟨k, p, hk⟩ := h
  obtain ⟨k', p', hrun⟩ := exists_run_of_engineSteps hk
  exact ⟨⟨k', p', hrun⟩, himages⟩

/-! Commands and captures (R172, R175, R176). -/

/-- A command's two steps: its operations and its device effect. -/
theorem engineReaches_command {s : State} {q : Seq} {n : Nat} {c : Cmd} (hpc : s.pc = .at q n)
    (hm : microAt q n = some (.cmd c)) : EngineReaches s (State.settled
      { s with xport := afterOps s.xport (cmdOps s.cfg.op c), device := s.device ++ (effectOf c).toList,
               fsm := { s.fsm with latch := none }, pc := .at q (n + 2) }) := by
  have hshift := EngineReaches.step (engineStep_cmd hpc hm)
  have hlatch := EngineReaches.step (engineStep_latch
    (s := ({ s with pc := .at q (n + 1) } : State).shiftCommand c (effectOf c)) rfl (latch_after_cmd hm))
  exact hshift.trans hlatch

/-- The step of a status read's capture, which drains the queue. -/
theorem engineReaches_readSt {s : State} {q : Seq} {n : Nat} (hpc : s.pc = .at q n)
    (hm : microAt q n = some (.op .readSt)) : EngineReaches s (State.settled
      { s with xport := afterOps s.xport [.dr 32 readProbe .runTestIdle true], st := some s.answerWord,
               pc := .at q (n + 1) }) := by
  refine EngineReaches.step_withPerformed (p := s.readSt.xport.performed) ?_
  rw [engineStep_wire hpc hm rfl, ← State.settled_withPerformed, State.advance, show s.readSt.pc = .at q n from hpc]
  rfl

/-! A status read (R175, R176). -/

/-- A status read stands at an entry: its command, the latch clocks and the capture. -/
structure StatusReadAt (q : Seq) (n : Nat) : Prop where
  cmd : microAt q n = some (.cmd .readStatus)
  latch : microAt q (n + 1) = some .latch
  capture : microAt q (n + 2) = some (.op .readSt)

theorem State.moved?_cmd {s : State} {q : Seq} {n : Nat} {c : Cmd} (hpc : s.pc = .at q n)
    (hm : microAt q n = some (.cmd c)) : s.moved? = none := by
  simp [State.moved?, hpc, hm]

theorem State.moved?_readSt {s : State} {q : Seq} {n : Nat} (hpc : s.pc = .at q n)
    (hm : microAt q n = some (.op .readSt)) : s.moved? = none := by
  simp [State.moved?, hpc, hm]

/-- What `k` status reads leave, the last of which gave `w`, but for the step pointer. -/
def State.statusReads (s : State) (k : Nat) (w : Word) : State :=
  { s with xport := afterOps s.xport (List.replicate k (readOps s.cfg.op .readStatus)).flatten, st := some w,
           fsm := { s.fsm with latch := none }, device := s.device ++ List.replicate k .selectStatus }

/-- The three steps of a status read (R175). -/
theorem engineReaches_statusRead {s : State} {q : Seq} {n : Nat} (hpc : s.pc = .at q n) (hread : StatusReadAt q n) :
    EngineReaches s ((s.statusReads 1 s.answerWord).goto q (n + 3)).settled := by
  have hcommand := engineReaches_command hpc hread.cmd
  rw [State.settled_of_rest (State.moved?_readSt rfl hread.capture)] at hcommand
  exact hcommand.trans (engineReaches_readSt rfl hread.capture)

theorem afterOps_append (x : Transport) (ops ops' : List TOp) :
    afterOps x (ops ++ ops') = afterOps (afterOps x ops) ops' :=
  List.foldl_append

/-- Status reads behind status reads add up. -/
theorem State.statusReads_statusReads (s : State) (j k : Nat) (v w : Word) :
    (s.statusReads j v).statusReads k w = s.statusReads (j + k) w := by
  simp only [State.statusReads, ← afterOps_append, ← List.flatten_append, List.replicate_append_replicate,
    List.append_assoc]

theorem State.answerWord_leBytes {s : State} {w : Word} {rs : List (List Byte)} (h : s.xport.replies = leBytes w :: rs) :
    s.answerWord = w :=
  (State.answerWord_scripted h).trans (Laws.leWord_leBytes w)

end Sys2Proof.Machine
end

section
/-! PROOFS. The polls (R177, R366): a status read for each answer that does not match, up to the last one's, from which the poll
goes on or times out. -/

namespace Sys2Proof.Machine

open Sys2Proof.Claims

/-- A poll's loop stands at an entry: the status read and the test behind it, which goes back to the read. -/
structure PollAt (q : Seq) (n : Nat) (mask value : Word) (code : Code) : Prop where
  read : StatusReadAt q n
  test : microAt q (n + 3) = some (.ctl (.pollNext mask value code n))

/-- The state with POLLCNT at a count and the step pointer at an entry of the poll. -/
def State.atPoll (s : State) (count : Nat) (q : Seq) (n : Nat) : State :=
  { s with pollCnt := BitVec.ofNat 32 count, pc := .at q n }

/-- Status reads do not look at POLLCNT or the step pointer. -/
theorem State.statusReads_atPoll (s : State) (count : Nat) (q : Seq) (n k : Nat) (w : Word) :
    (s.atPoll count q n).statusReads k w = (s.statusReads k w).atPoll count q n := rfl

theorem State.atPoll_atPoll (s : State) (count count' : Nat) (q q' : Seq) (n n' : Nat) :
    (s.atPoll count q n).atPoll count' q' n' = s.atPoll count' q' n' := rfl

theorem pollCnt_succ (k : Nat) : BitVec.ofNat 32 k + 1 = BitVec.ofNat 32 (k + 1) :=
  (BitVec.ofNat_add k 1).symm

/-- POLLCNT shows every count up to POLL_MAX. -/
theorem pollCnt_toNat {k : Nat} {max : Word} (h : k ≤ max.toNat) : (BitVec.ofNat 32 k).toNat = k :=
  Nat.mod_eq_of_lt (h.trans_lt max.isLt)

/-! The test behind a read (R177, R366). -/

theorem matchesMask_iff {w mask value : Word} : matchesMask w mask value = true ↔ w &&& mask = value :=
  beq_iff_eq

section

variable {s : State} {q : Seq} {n k : Nat} {mask value : Word} {code : Code}

theorem State.settled_pollTest (hpoll : PollAt q n mask value code) :
    (s.atPoll k q (n + 3)).settled = ((s.atPoll k q (n + 3)).pollNext q (n + 3) mask value code n).settled :=
  State.settled_ctl rfl hpoll.test

/-- At a match the poll counts the read and goes on. -/
theorem State.settled_pollMatch (hpoll : PollAt q n mask value code) (hyes : statusOr s.st &&& mask = value) :
    (s.atPoll k q (n + 3)).settled = (s.atPoll (k + 1) q (n + 4)).settled := by
  have hmatch : matchesMask (statusOr s.st) mask value = true := matchesMask_iff.mpr hyes
  rw [State.settled_pollTest hpoll]
  rcases (s.atPoll k q (n + 3)).pollNext_cases q (n + 3) mask value code n with ⟨_, e⟩ | ⟨hmiss, _⟩ | ⟨hmiss, _⟩
  · rw [e, State.atPoll, pollCnt_succ]
    rfl
  · cases hmatch.symm.trans hmiss
  · cases hmatch.symm.trans hmiss

/-- Without a match the poll counts the read and reads again, while the count is below POLL_MAX. -/
theorem State.settled_pollAgain (hpoll : PollAt q n mask value code) (hno : statusOr s.st &&& mask ≠ value)
    (hcount : k + 1 < s.cfg.pollMax.toNat) : (s.atPoll k q (n + 3)).settled = s.atPoll (k + 1) q n := by
  have hcnt : ((s.atPoll k q (n + 3)).pollCnt + 1).toNat = k + 1 := by
    rw [State.atPoll, pollCnt_succ, pollCnt_toNat hcount.le]
  rw [State.settled_pollTest hpoll]
  rcases (s.atPoll k q (n + 3)).pollNext_cases q (n + 3) mask value code n with ⟨hyes, _⟩ | ⟨_, _, e⟩ | ⟨_, hge, _⟩
  · exact absurd (matchesMask_iff.mp hyes) hno
  · rw [e, State.settled_of_rest (State.moved?_cmd rfl hpoll.read.cmd), State.atPoll, pollCnt_succ]
    rfl
  · exact absurd (hcnt ▸ hge) (Nat.not_le.mpr hcount)

/-- Without a match in POLL_MAX reads the poll counts the read, logs its timeout and returns the caller's Fatal. -/
theorem State.settled_pollTimeout (hpoll : PollAt q n mask value code) (hno : statusOr s.st &&& mask ≠ value)
    (hcount : k + 1 = s.cfg.pollMax.toNat) : (s.atPoll k q (n + 3)).settled =
      (((s.atPoll (k + 1) q (n + 3)).logEntry .error .pollTimeout (statusOr s.st)).returnOutcome
        (.fatal code (statusOr s.st))).settled := by
  have hcnt : ((s.atPoll k q (n + 3)).pollCnt + 1).toNat = k + 1 := by
    rw [State.atPoll, pollCnt_succ, pollCnt_toNat hcount.le]
  rw [State.settled_pollTest hpoll]
  rcases (s.atPoll k q (n + 3)).pollNext_cases q (n + 3) mask value code n with ⟨hyes, _⟩ | ⟨_, hlt, _⟩ | ⟨_, _, e⟩
  · exact absurd (matchesMask_iff.mp hyes) hno
  · exact absurd (hcnt ▸ hlt) hcount.not_lt
  · rw [e, State.atPoll, pollCnt_succ]
    rfl

end

/-! The reads. -/

/-- One read of a poll, POLLCNT at `k` before it. -/
theorem engineReaches_pollRead {s : State} {q : Seq} {n k : Nat} {w : Word} {rs : List (List Byte)} (hpc : s.pc = .at q n)
    (hread : StatusReadAt q n) (hcount : s.pollCnt = BitVec.ofNat 32 k) (hreplies : s.xport.replies = leBytes w :: rs) :
    EngineReaches s ((s.statusReads 1 w).atPoll k q (n + 3)).settled := by
  have h := engineReaches_statusRead hpc hread
  rw [State.answerWord_leBytes hreplies] at h
  rw [State.atPoll, ← hcount]
  exact h

/-- With POLLCNT at `k` the poll makes a status read for each answer that does not match and one more, and comes to its test
behind that. -/
theorem engineReaches_pollTest {q : Seq} {n : Nat} {mask value : Word} {code : Code} {w : Word} {rest : List (List Byte)}
    (hpoll : PollAt q n mask value code) : ∀ {ws : List Word} {s : State} {k : Nat}, s.pc = .at q n →
    s.pollCnt = BitVec.ofNat 32 k → s.xport.replies = (ws ++ [w]).map leBytes ++ rest →
    (∀ v ∈ ws, v &&& mask ≠ value) → k + ws.length < s.cfg.pollMax.toNat →
    EngineReaches s ((s.statusReads (ws.length + 1) w).atPoll (k + ws.length) q (n + 3)).settled
  | [], _, _, hpc, hcount, hreplies, _, _ => engineReaches_pollRead hpc hpoll.read hcount hreplies
  | v :: ws, s, k, hpc, hcount, hreplies, hno, hmax => by
    rw [List.length_cons] at hmax
    have hbelow : k + 1 + ws.length < s.cfg.pollMax.toNat := by omega
    have hagain := State.settled_pollAgain (s := s.statusReads 1 v) (k := k) hpoll (hno v List.mem_cons_self)
      (show k + 1 < s.cfg.pollMax.toNat by omega)
    have hfirst := engineReaches_pollRead hpc hpoll.read hcount hreplies
    have hothers := engineReaches_pollTest (s := (s.statusReads 1 v).atPoll (k + 1) q n) hpoll rfl rfl
      (congrArg List.tail hreplies) (fun u hu => hno u (List.mem_cons_of_mem v hu)) hbelow
    rw [hagain] at hfirst
    rw [State.statusReads_atPoll, State.atPoll_atPoll, State.statusReads_statusReads, Nat.add_comm 1,
      Nat.add_right_comm k 1] at hothers
    exact hfirst.trans hothers

/-- A poll whose last answer matches goes on, the reads counted. -/
theorem engineReaches_pollMatch {s : State} {q : Seq} {n : Nat} {mask value : Word} {code : Code} {ws : List Word}
    {w : Word} {rest : List (List Byte)} (hpoll : PollAt q n mask value code) (hpc : s.pc = .at q n) (hcount : s.pollCnt = 0)
    (hreplies : s.xport.replies = (ws ++ [w]).map leBytes ++ rest) (hno : ∀ v ∈ ws, v &&& mask ≠ value)
    (hyes : w &&& mask = value) (hmax : ws.length + 1 ≤ s.cfg.pollMax.toNat) :
    EngineReaches s ((s.statusReads (ws.length + 1) w).atPoll (ws.length + 1) q (n + 4)).settled := by
  have hreads := engineReaches_pollTest hpoll (k := 0) hpc hcount hreplies hno (by omega)
  have hon := State.settled_pollMatch (s := s.statusReads (ws.length + 1) w) (k := ws.length) hpoll hyes
  rwa [Nat.zero_add, hon] at hreads

/-- The state in which a poll that timed out returns: the reads counted, the timeout logged. -/
def State.pollTimedOut (s : State) (k : Nat) (w : Word) (q : Seq) (n : Nat) : State :=
  ((s.statusReads k w).atPoll k q n).logEntry .error .pollTimeout w

/-- A poll without a match in POLL_MAX reads returns the caller's Fatal with the last word. -/
theorem engineReaches_pollTimeout {s : State} {q : Seq} {n : Nat} {mask value : Word} {code : Code} {ws : List Word}
    {w : Word} {rest : List (List Byte)} (hpoll : PollAt q n mask value code) (hpc : s.pc = .at q n) (hcount : s.pollCnt = 0)
    (hreplies : s.xport.replies = (ws ++ [w]).map leBytes ++ rest) (hno : ∀ v ∈ ws ++ [w], v &&& mask ≠ value)
    (hmax : ws.length + 1 = s.cfg.pollMax.toNat) :
    EngineReaches s ((s.pollTimedOut (ws.length + 1) w q (n + 3)).returnOutcome (.fatal code w)).settled := by
  have hbefore : ∀ v ∈ ws, v &&& mask ≠ value := fun v hv => hno v (List.mem_append_left [w] hv)
  have hlast : w &&& mask ≠ value := hno w (List.mem_append_right ws (List.mem_singleton_self w))
  have hreads := engineReaches_pollTest hpoll (k := 0) hpc hcount hreplies hbefore (by omega)
  have hreturn := State.settled_pollTimeout (s := s.statusReads (ws.length + 1) w) hpoll hlast hmax
  rw [Nat.zero_add, hreturn] at hreads
  exact hreads

/-! The two ends of a poll as the host's runs see them. -/

theorem imagesKept_settled {s t : State} (h : imagesKept s t) : imagesKept s t.settled := by
  intro a
  rw [State.settled_bs, State.settled_mcu]
  exact h a

theorem imagesKept_returnOutcome {s t : State} (h : imagesKept s t) (o : SeqOutcome) :
    imagesKept s (t.returnOutcome o) := by
  intro a
  rw [State.returnOutcome_bs, State.returnOutcome_mcu]
  exact h a

/-- Settles O22: the poll's reads, the last of which matches, and its test behind them. -/
theorem pollMatches : Obligations.PollMatches := by
  intro s q n mask value code ws w rest hpc hcmd hlatch hcapture htest hcount hreplies hno hyes hmax
  have hpoll : PollAt q n mask value code := ⟨⟨hcmd, hlatch, hcapture⟩, htest⟩
  exact (engineReaches_pollMatch hpoll hpc hcount hreplies hno hyes hmax).reaches
    (imagesKept_settled fun a => ⟨rfl, rfl⟩)

/-! The polls of the hardwired program (R220, R222, R226). -/

/-- A poll's test stands behind POLLCNT's reset and a status read, and is that of Enable, Disable or EraseSRAM. -/
def Micro.pollPlaced (q : Seq) (k : Nat) : Micro → Bool
  | .ctl (.pollNext mask value code n) =>
    decide (k = n + 3 ∧ 1 ≤ n ∧ microAt q (n - 1) = some (.ctl .pollInit) ∧ microAt q n = some (.cmd .readStatus) ∧
      microAt q (n + 1) = some .latch ∧ microAt q (n + 2) = some (.op .readSt) ∧
      ((q = .enable ∧ mask = 0x80 ∧ value = 0x80 ∧ code = .enableTimeout) ∨
       (q = .disable ∧ mask = 0x80 ∧ value = 0 ∧ code = .disableTimeout) ∨
       (q = .eraseSram ∧ mask = 0x20 ∧ value = 0x20 ∧ code = .sramEraseTimeout)))
  | _ => true

theorem rom_pollPlaced (q : Seq) : romAll (fun n m => m.pollPlaced q n) q = true := by
  cases q with
  | single b => rfl
  | _ => decide

/-- Settles O23: the poll's reads, none of which matches, its return, which ends callers that all pass it up, and the three
polls of the hardwired program. -/
theorem pollTimesOut : Obligations.PollTimesOut := by
  refine ⟨?_, fun q k n mask value code hm => of_decide_eq_true (romAll_at (rom_pollPlaced q) hm)⟩
  intro s q n mask value code ws w rest hpc hcmd hlatch hcapture htest hcount hreplies hno hmax
  have hpoll : PollAt q n mask value code := ⟨⟨hcmd, hlatch, hcapture⟩, htest⟩
  have hrun := engineReaches_pollTimeout hpoll hpc hcount hreplies hno hmax
  have himages : imagesKept s (s.pollTimedOut (ws.length + 1) w q (n + 3)) := fun a => ⟨rfl, rfl⟩
  refine ⟨s.pollTimedOut (ws.length + 1) w q (n + 3), rfl,
    hrun.reaches (imagesKept_settled (imagesKept_returnOutcome himages _)), fun hpass => ?_⟩
  have hreturn : (s.pollTimedOut (ws.length + 1) w q (n + 3)).returnOutcome (.fatal code w) =
      (s.pollTimedOut (ws.length + 1) w q (n + 3)).finish (.fatal code w) :=
    State.returnOutcome_finish (unwind_all rfl hpass)
  rw [hreturn, State.settled_of_rest (State.moved?_idle rfl)] at hrun
  exact hrun.reaches himages

end Sys2Proof.Machine
end

section
/-! PROOFS. The variant resolver: the row that an identity resolves by, and the table's shape (10_state.md R52,
42_variant_resolver.md R200 to R209). -/

namespace Sys2Proof.Machine

open Sys2Proof.Claims

/-- The shape of VARIANT_TABLE as the resolver meets it: what well-formed parameters say of the table and of the two
identity parameters (R52, R200, log 17). -/
structure TableShape (p : Params) : Prop where
  noDevice : ∀ i ∈ noDeviceIds, ∀ r ∈ p.variantTable, r.1 ≠ i
  oneRow : (p.variantTable.map (·.1)).Nodup
  oneSwapped : ∃ r, p.variantTable.filter (fun r => r.2.legacyPins) = [r]
  forcedOfUnknown : ∀ r ∈ p.variantTable, r.2.extFlashForced = !r.2.checksumKnown
  forcedFamilies : familyCount p.variantTable VariantRow.family (·.extFlashForced) = 2
  encBFamilies : familyCount p.variantTable VariantRow.family (fun r => r.spiEncoding == .encB) = 1
  disableNoopFamilies : familyCount p.variantTable VariantRow.exitFamily (fun r => r.extExit == .disableNoop) = 1
  firmwareRow : ∃ r ∈ p.variantTable, r.1 = p.mcuFwDevice
  noFlashWriteRow : ∀ i ∈ p.noFlashWrite, ∃ r ∈ p.variantTable, r.1 = i

theorem Params.tableShape {p : Params} (h : p.wf = true) : TableShape p := by
  simp only [Params.wf, shapeOk, Bool.and_eq_true, beq_iff_eq, decide_eq_true_eq, List.all_eq_true, Bool.not_eq_true',
    List.contains_eq_mem, decide_eq_false_iff_not, List.mem_map] at h
  obtain ⟨⟨⟨-, ⟨⟨⟨⟨⟨⟨hnone, hnodup⟩, hswapped⟩, hforced⟩, hforcedCount⟩, hencB⟩, hexit⟩⟩, hfirmware⟩, hflash⟩ := h
  exact {
    noDevice := fun i hi r hr heq => hnone r hr (heq ▸ hi)
    oneRow := hnodup
    oneSwapped := List.length_eq_one_iff.mp hswapped
    forcedOfUnknown := hforced
    forcedFamilies := hforcedCount
    encBFamilies := hencB
    disableNoopFamilies := hexit
    firmwareRow := hfirmware
    noFlashWriteRow := hflash }

/-- A count of families that is not zero counts a row. -/
theorem exists_row_of_familyCount {table : List (Word × VariantRow)} {family : VariantRow → Nat} {pick : VariantRow → Bool}
    (h : familyCount table family pick ≠ 0) : ∃ r ∈ table, pick r.2 = true := by
  by_contra hno
  have hpicked : table.filter (fun r => pick r.2) = [] :=
    List.filter_eq_nil_iff.mpr fun r hr hp => hno ⟨r, hr, hp⟩
  exact h (by simp only [familyCount, hpicked, List.map_nil, List.dedup_nil, List.length_nil])

/-! What an identity resolves by: a row of its own, or the default's. -/

theorem rowOf_default {p : Params} {id : Word} (h : ∀ r ∈ p.variantTable, r.1 ≠ id) : rowOf p id = defaultRow := by
  have hfind : p.variantTable.find? (fun r => r.1 == id) = none :=
    List.find?_eq_none.mpr fun r hr heq => h r hr (beq_iff_eq.mp heq)
  simp only [rowOf, hfind, Option.map_none, Option.getD_none]

theorem rowOf_of_row {p : Params} {id : Word} (h : ∃ r ∈ p.variantTable, r.1 = id) :
    ∃ r ∈ p.variantTable, r.1 = id ∧ rowOf p id = r.2 := by
  obtain ⟨r, hr, hid⟩ := h
  obtain ⟨r', hfind⟩ := Option.isSome_iff_exists.mp
    (List.find?_isSome (p := fun r : Word × VariantRow => r.1 == id).mpr ⟨r, hr, beq_iff_eq.mpr hid⟩)
  have hid' : (r'.1 == id) = true := List.find?_some (p := fun r : Word × VariantRow => r.1 == id) hfind
  refine ⟨r', List.mem_of_find?_eq_some hfind, beq_iff_eq.mp hid', ?_⟩
  simp only [rowOf, hfind, Option.map_some, Option.getD_some]

theorem rowOf_cases (p : Params) (id : Word) :
    (∃ r ∈ p.variantTable, r.1 = id ∧ rowOf p id = r.2) ∨ rowOf p id = defaultRow := by
  by_cases h : ∃ r ∈ p.variantTable, r.1 = id
  · exact .inl (rowOf_of_row h)
  · exact .inr (rowOf_default fun r hr hid => h ⟨r, hr, hid⟩)

namespace TableShape

variable {p : Params} (h : TableShape p)
include h

/-- Of a table with one row for an identity, every row is found by its identity. -/
theorem rowOf_row {r : Word × VariantRow} (hr : r ∈ p.variantTable) : rowOf p r.1 = r.2 := by
  obtain ⟨r', hr', hid, hrow⟩ := rowOf_of_row ⟨r, hr, rfl⟩
  have hsame : r' = r := List.inj_on_of_nodup_map h.oneRow hr' hr hid
  rw [hrow, hsame]

theorem exists_rowOf {family : VariantRow → Nat} {pick : VariantRow → Bool}
    (hcount : familyCount p.variantTable family pick ≠ 0) : ∃ id, pick (rowOf p id) = true := by
  obtain ⟨r, hr, hpick⟩ := exists_row_of_familyCount hcount
  exact ⟨r.1, by rw [h.rowOf_row hr, hpick]⟩

/-- An identity without a row is neither the firmware device nor one that refuses flash writes (R52). -/
theorem resolve_of_no_row {id : Word} (hno : ∀ r ∈ p.variantTable, r.1 ≠ id) :
    resolve p id = { defaultVariant p with extendedErase := id == idLongVariant } := by
  have hfirmware : (id == p.mcuFwDevice) = false := by
    obtain ⟨r, hr, hid⟩ := h.firmwareRow
    exact beq_false_of_ne fun heq => hno r hr (hid.trans heq.symm)
  have hflash : p.noFlashWrite.contains id = false := by
    refine Bool.eq_false_iff.mpr fun hmem => ?_
    obtain ⟨r, hr, hid⟩ := h.noFlashWriteRow id (List.contains_iff_mem.mp hmem)
    exact hno r hr hid
  simp only [resolve, rowOf_default hno, hfirmware, hflash]
  rfl

theorem resolve_no_device {id : Word} (hid : id ∈ noDeviceIds) :
    resolve p id = { defaultVariant p with extendedErase := id == idLongVariant } :=
  h.resolve_of_no_row (h.noDevice id hid)

/-- The identity of the one row with swapped pins is the only one that has them, for the default has not (R202). -/
theorem exists_unique_legacyPins :
    ∃ id, (rowOf p id).legacyPins = true ∧ ∀ id', (rowOf p id').legacyPins = true → id' = id := by
  obtain ⟨r, hfilter⟩ := h.oneSwapped
  have hswapped : ∀ r', r' ∈ p.variantTable ∧ r'.2.legacyPins = true ↔ r' = r := fun r' => by
    have hmem : r' ∈ p.variantTable.filter (fun r => r.2.legacyPins) ↔ r' ∈ [r] := by rw [hfilter]
    rwa [List.mem_filter, List.mem_singleton] at hmem
  obtain ⟨hr, hpins⟩ := (hswapped r).mpr rfl
  refine ⟨r.1, by rw [h.rowOf_row hr, hpins], fun id' hid' => ?_⟩
  obtain ⟨r', hr', rfl, hrow⟩ | hrow := rowOf_cases p id'
  · rw [(hswapped r').mp ⟨hr', hrow ▸ hid'⟩]
  · rw [hrow] at hid'
    exact Bool.noConfusion hid'

/-- Every row forces the external flash exactly with the checksum algorithm unknown, and the default does neither (R203). -/
theorem extFlashForced_rowOf (id : Word) : (rowOf p id).extFlashForced = !(rowOf p id).checksumKnown := by
  obtain ⟨r, hr, -, hrow⟩ | hrow := rowOf_cases p id
  · rw [hrow, h.forcedOfUnknown r hr]
  · rw [hrow]
    rfl

end TableShape

/-- The extended iteration of 0x0900281B is beside the table (R209). -/
theorem resolve_idLongVariant (p : Params) : (resolve p idLongVariant).extendedErase = true := Bool.or_true _

theorem resolve_mcuAllowed (p : Params) (id : Word) : (resolve p id).mcuAllowed = true ↔ id = p.mcuFwDevice := beq_iff_eq

/-- Settles O44: an identity's row is its own or the default's, and the shape of well-formed parameters says what the rows
of its own can be. -/
theorem variantKnownPoints : Obligations.VariantKnownPoints := by
  refine ⟨resolve_idLongVariant, fun p id hwf hno => (Params.tableShape hwf).resolve_of_no_row hno, fun p hwf => ?_,
    fun p id => ⟨rfl, resolve_mcuAllowed p id, rfl, rfl⟩, fun p hwf => ?_⟩
  · have h := Params.tableShape hwf
    exact ⟨h.resolve_no_device (by decide), h.resolve_no_device (by decide)⟩
  · have h := Params.tableShape hwf
    obtain ⟨idB, hencB⟩ := h.exists_rowOf (ne_of_eq_of_ne h.encBFamilies one_ne_zero)
    obtain ⟨idNoop, hexit⟩ := h.exists_rowOf (ne_of_eq_of_ne h.disableNoopFamilies one_ne_zero)
    have hforced := h.exists_rowOf (ne_of_eq_of_ne h.forcedFamilies two_ne_zero)
    exact ⟨h.exists_unique_legacyPins, h.extFlashForced_rowOf, hforced,
      ⟨idB, beq_iff_eq.mp hencB⟩, ⟨idNoop, beq_iff_eq.mp hexit⟩⟩

end Sys2Proof.Machine
end

section
/-! PROOFS. The rules for the stretches that the configuration sequences are made of, and EraseSRAM (R226): a command, a status
read, a poll matched at its first read, a call that returns Ok, Enable's and Disable's among them (R220, R222), the return by
DONE. -/

namespace Sys2Proof.Machine

open Sys2Proof.Claims

/-! What a stretch of a sequence leaves. -/

/-- The operations of a stretch of a sequence issued, its commands' device effects brought, none left to latch clocks. -/
def State.ran (s : State) (ops : List TOp) (cs : List Cmd) : State :=
  { s with xport := afterOps s.xport ops, device := s.device ++ effects cs, fsm := { s.fsm with latch := none } }

theorem effects_append (cs cs' : List Cmd) : effects (cs ++ cs') = effects cs ++ effects cs' :=
  List.filterMap_append

theorem effects_singleton (c : Cmd) : effects [c] = (effectOf c).toList := by
  cases h : effectOf c <;> simp [effects, h]

/-- Stretches behind one another add up. -/
theorem State.ran_ran (s : State) (ops ops' : List TOp) (cs cs' : List Cmd) :
    (s.ran ops cs).ran ops' cs' = s.ran (ops ++ ops') (cs ++ cs') := by
  simp only [State.ran, afterOps_append, effects_append, List.append_assoc]

/-- A status read is a stretch, and ST its word. -/
theorem State.statusReads_one (s : State) (w : Word) :
    s.statusReads 1 w = { s.ran (readOps s.cfg.op .readStatus) [.readStatus] with st := some w } := rfl

/-- A stretch whose last call returned Ok behind a poll matched at its first read, `w` the last status read. -/
def State.configured (s : State) (ops : List TOp) (cs : List Cmd) (w : Word) : State :=
  { s.ran ops cs with st := some w, pollCnt := 1, fsm := { s.fsm with ret := .ok, latch := none } }

section

variable (s : State) (ops ops' : List TOp) (cs cs' : List Cmd) (v w : Word)

theorem State.configured_ran :
    (s.configured ops cs v).ran ops' cs' = s.configured (ops ++ ops') (cs ++ cs') v :=
  congrArg (fun t : State => { t with st := some v, pollCnt := 1, fsm := { t.fsm with ret := .ok } })
    (s.ran_ran ops ops' cs cs')

theorem State.ran_configured :
    (s.ran ops cs).configured ops' cs' w = s.configured (ops ++ ops') (cs ++ cs') w :=
  congrArg (fun t : State => { t with st := some w, pollCnt := 1, fsm := { t.fsm with ret := .ok } })
    (s.ran_ran ops ops' cs cs')

theorem State.configured_configured :
    (s.configured ops cs v).configured ops' cs' w = s.configured (ops ++ ops') (cs ++ cs') w :=
  s.ran_configured ops ops' cs cs' w

theorem State.configured_statusReads : (s.configured ops cs v).statusReads 1 w =
    s.configured (ops ++ readOps s.cfg.op .readStatus) (cs ++ [.readStatus]) w :=
  s.configured_configured ops (readOps s.cfg.op .readStatus) cs [.readStatus] v w

end

/-! The rules. -/

section

variable {s : State} {q : Seq} {n : Nat}

theorem State.goto_of_pc (hpc : s.pc = .at q n) : s.goto q n = s := by
  rw [State.goto, ← hpc]

/-- A return that is not Fatal resumes the nearest caller (R20). -/
theorem State.returnOutcome_of_not_fatal {o : SeqOutcome} {f : Frame} {fs : List Frame} (ho : o.isFatal = false)
    (hcallers : s.callers = f :: fs) :
    s.returnOutcome o = { s with pc := .at f.seq f.step, callers := fs, fsm := { s.fsm with ret := o } } :=
  State.returnOutcome_resume ((unwind_of_not_fatal ho s.callers).trans hcallers)

/-- A command (R172). -/
theorem engineReaches_commandStretch {c : Cmd} (hm : microAt q n = some (.cmd c)) :
    EngineReaches (s.goto q n).settled ((s.ran (cmdOps s.cfg.op c) [c]).goto q (n + 2)).settled := by
  rw [State.settled_of_rest (State.moved?_cmd rfl hm), State.ran, effects_singleton]
  exact engineReaches_command rfl hm

/-- A poll with POLLCNT's reset before it, matched at its first read (R177). -/
theorem engineReaches_pollOnce {mask value w : Word} {code : Code} {rs : List (List Byte)}
    (hinit : microAt q n = some (.ctl .pollInit)) (hpoll : PollAt q (n + 1) mask value code)
    (hreplies : s.xport.replies = leBytes w :: rs) (hyes : w &&& mask = value) (hmax : 1 ≤ s.cfg.pollMax.toNat) :
    EngineReaches (s.goto q n).settled ((s.statusReads 1 w).atPoll 1 q (n + 5)).settled := by
  have hstart : (s.goto q n).settled = s.atPoll 0 q (n + 1) := by
    rw [State.settled_ctl rfl hinit]
    exact State.settled_of_rest (State.moved?_cmd rfl hpoll.read.cmd)
  rw [hstart]
  exact engineReaches_pollMatch (ws := []) hpoll rfl rfl hreplies (fun _ hv => absurd hv List.not_mem_nil) hyes hmax

/-- A call whose sequence comes to its return of Ok: the call's sequence goes on, Ok bound. -/
theorem engineReaches_callOk {t : State} {pass : Bool} {q' : Seq} {k : Nat}
    (hcall : microAt q n = some (.ctl (.call q' pass))) (hret : microAt q' k = some (.ctl .retOk))
    (hpc : t.pc = .at q' k) (hcallers : t.callers = ⟨q, n + 1, pass⟩ :: s.callers)
    (hbody : EngineReaches (s.callSeq q (n + 1) pass q').settled t.settled) :
    EngineReaches (s.goto q n).settled
      ({ t with callers := s.callers, fsm := { t.fsm with ret := .ok } }.goto q (n + 1)).settled := by
  rw [State.settled_ctl hpc hret, State.move, State.returnOutcome_of_not_fatal rfl hcallers] at hbody
  rw [State.settled_ctl rfl hcall]
  exact hbody

/-- A call of Enable, its poll matched at its first read (R220). -/
theorem engineReaches_callEnable {pass : Bool} {w : Word} {rs : List (List Byte)}
    (hcall : microAt q n = some (.ctl (.call .enable pass))) (hreplies : s.xport.replies = leBytes w :: rs)
    (hyes : w &&& 0x80 = 0x80) (hmax : 1 ≤ s.cfg.pollMax.toNat) : EngineReaches (s.goto q n).settled
      ((s.configured (enableOps s.cfg.op) [.enable, .readStatus] w).goto q (n + 1)).settled := by
  have hcommand := engineReaches_commandStretch (s := s.callSeq q (n + 1) pass .enable) (q := .enable) (n := 0) rfl
  have hpoll := engineReaches_pollOnce (s := (s.callSeq q (n + 1) pass .enable).ran (cmdOps s.cfg.op .enable) [.enable])
    (q := .enable) (n := 2) rfl ⟨⟨rfl, rfl, rfl⟩, rfl⟩ hreplies hyes hmax
  have hbody := engineReaches_callOk hcall rfl rfl rfl (hcommand.trans hpoll)
  rw [enableOps, show [Cmd.enable, .readStatus] = [.enable] ++ [.readStatus] from rfl, ← State.ran_configured]
  exact hbody

/-- A call of Disable, its poll matched at its first read (R222). -/
theorem engineReaches_callDisable {pass : Bool} {w : Word} {rs : List (List Byte)}
    (hcall : microAt q n = some (.ctl (.call .disable pass))) (hreplies : s.xport.replies = leBytes w :: rs)
    (hyes : w &&& 0x80 = 0) (hmax : 1 ≤ s.cfg.pollMax.toNat) : EngineReaches (s.goto q n).settled
      ((s.configured (disableOps s.cfg.op) [.disable, .noop, .readStatus] w).goto q (n + 1)).settled := by
  have hdisable := engineReaches_commandStretch (s := s.callSeq q (n + 1) pass .disable) (q := .disable) (n := 0) rfl
  have hnoop := engineReaches_commandStretch
    (s := (s.callSeq q (n + 1) pass .disable).ran (cmdOps s.cfg.op .disable) [.disable]) (q := .disable) (n := 2) rfl
  rw [State.ran_ran] at hnoop
  have hpoll := engineReaches_pollOnce (s := (s.callSeq q (n + 1) pass .disable).ran
    (cmdOps s.cfg.op .disable ++ cmdOps s.cfg.op .noop) [.disable, .noop])
    (q := .disable) (n := 4) rfl ⟨⟨rfl, rfl, rfl⟩, rfl⟩ hreplies hyes hmax
  have hbody := engineReaches_callOk hcall rfl rfl rfl ((hdisable.trans hnoop).trans hpoll)
  rw [disableOps, show [Cmd.disable, .noop, .readStatus] = [.disable, .noop] ++ [.readStatus] from rfl,
    ← State.ran_configured]
  exact hbody

/-- The return by DONE to a caller: the outcome bound, and an Advisory logged (R226, R234, R250, R266). -/
theorem State.settled_retDone {want : Bool} {code : Code} {w : Word} {o : SeqOutcome} {f : Frame} {fs : List Frame}
    (hm : microAt q n = some (.ctl (.retDone want code))) (hst : s.st = some w) (hcallers : s.callers = f :: fs)
    (ho : o = if flagSet w .done = want then .ok else .advisory code w) :
    (s.goto q n).settled = State.settled
      { s with log := s.log ++ advisoryLog o, fsm := { s.fsm with ret := o }, pc := .at f.seq f.step, callers := fs } := by
  have hword : statusOr (s.goto q n).st = w := congrArg statusOr hst
  rw [State.settled_ctl rfl hm, State.move]
  rcases (s.goto q n).returnByDone_cases want code with ⟨hdone, hreturn⟩ | ⟨hdone, hreturn⟩
  · rw [hword] at hdone
    rw [hreturn, ho, if_pos hdone, State.returnOutcome_of_not_fatal (s := s.goto q n) rfl hcallers, advisoryLog,
      List.append_nil]
    rfl
  · rw [hword] at hdone hreturn
    rw [hreturn, ho, if_neg hdone,
      State.returnOutcome_of_not_fatal (s := (s.goto q n).logEntry .error code w) rfl hcallers]
    rfl

end

/-! The same rules behind a stretch that called Enable or Disable. -/

section

variable {s : State} {ops : List TOp} {cs : List Cmd} {v : Word} {q : Seq} {n : Nat}

theorem engineReaches_configured_command {c : Cmd} (hm : microAt q n = some (.cmd c)) :
    EngineReaches ((s.configured ops cs v).goto q n).settled
      ((s.configured (ops ++ cmdOps s.cfg.op c) (cs ++ [c]) v).goto q (n + 2)).settled := by
  rw [← State.configured_ran]
  exact engineReaches_commandStretch hm

theorem engineReaches_configured_poll {mask value w : Word} {code : Code} {rs : List (List Byte)}
    (hinit : microAt q n = some (.ctl .pollInit)) (hpoll : PollAt q (n + 1) mask value code)
    (hreplies : (afterOps s.xport ops).replies = leBytes w :: rs) (hyes : w &&& mask = value)
    (hmax : 1 ≤ s.cfg.pollMax.toNat) : EngineReaches ((s.configured ops cs v).goto q n).settled
      ((s.configured (ops ++ readOps s.cfg.op .readStatus) (cs ++ [.readStatus]) w).goto q (n + 5)).settled := by
  rw [← State.configured_statusReads (v := v)]
  exact engineReaches_pollOnce (s := s.configured ops cs v) hinit hpoll hreplies hyes hmax

theorem engineReaches_configured_statusRead {w : Word} {rs : List (List Byte)} (hread : StatusReadAt q n)
    (hreplies : (afterOps s.xport ops).replies = leBytes w :: rs) :
    EngineReaches ((s.configured ops cs v).goto q n).settled
      ((s.configured (ops ++ readOps s.cfg.op .readStatus) (cs ++ [.readStatus]) w).goto q (n + 3)).settled := by
  have hrun := engineReaches_statusRead (s := (s.configured ops cs v).goto q n) rfl hread
  rw [State.answerWord_leBytes hreplies] at hrun
  rw [← State.configured_statusReads (v := v), State.settled_of_rest (State.moved?_cmd rfl hread.cmd)]
  exact hrun

theorem engineReaches_configured_callDisable {pass : Bool} {w : Word} {rs : List (List Byte)}
    (hcall : microAt q n = some (.ctl (.call .disable pass)))
    (hreplies : (afterOps s.xport ops).replies = leBytes w :: rs)
    (hyes : w &&& 0x80 = 0) (hmax : 1 ≤ s.cfg.pollMax.toNat) :
    EngineReaches ((s.configured ops cs v).goto q n).settled
      ((s.configured (ops ++ disableOps s.cfg.op) (cs ++ [.disable, .noop, .readStatus]) w).goto q (n + 1)).settled := by
  rw [← State.configured_configured (v := v)]
  exact engineReaches_callDisable (s := s.configured ops cs v) hcall hreplies hyes hmax

end

/-! EraseSRAM (R226). -/

/-- EraseSRAM up to its return by DONE: Enable; the erase and its poll; the end of the transfer; Disable; the last status
read. -/
theorem engineReaches_eraseSram {s : State} {a b c w : Word} {rest : List (List Byte)} (hpc : s.pc = .at .eraseSram 0)
    (hmax : 1 ≤ s.cfg.pollMax.toNat) (hreplies : s.xport.replies = [leBytes a, leBytes b, leBytes c, leBytes w] ++ rest)
    (ha : a &&& 0x80 = 0x80) (hb : b &&& 0x20 = 0x20) (hc : c &&& 0x80 = 0) :
    EngineReaches s.settled
      ((s.configured (eraseSramOps s.cfg.op) eraseSramCmds w).goto .eraseSram 18).settled := by
  have hreplies2 : s.xport.replies.tail = leBytes b :: leBytes c :: leBytes w :: rest := congrArg List.tail hreplies
  have hreplies3 : s.xport.replies.tail.tail = leBytes c :: leBytes w :: rest := congrArg List.tail hreplies2
  have hreplies4 : s.xport.replies.tail.tail.tail = leBytes w :: rest := congrArg List.tail hreplies3
  have henable := engineReaches_callEnable (q := .eraseSram) (n := 0) rfl hreplies ha hmax
  rw [State.goto_of_pc hpc] at henable
  have herase := (henable.trans (engineReaches_configured_command (c := .eraseSram) rfl)).trans
    (engineReaches_configured_command (c := .noop) rfl)
  have hpolled := herase.trans (engineReaches_configured_poll rfl ⟨⟨rfl, rfl, rfl⟩, rfl⟩ hreplies2 hb hmax)
  have hended := (hpolled.trans (engineReaches_configured_command (c := .xferDone) rfl)).trans
    (engineReaches_configured_command (c := .noop) rfl)
  have hdisable := hended.trans (engineReaches_configured_callDisable rfl hreplies3 hc hmax)
  exact hdisable.trans (engineReaches_configured_statusRead ⟨rfl, rfl, rfl⟩ hreplies4)

theorem eraseSramResult_eq (w : Word) :
    eraseSramResult w = if flagSet w .done = false then .ok else .advisory .sramEraseDoneSet w := by
  have hdone : flagSet w .done = w.getLsbD 13 := rfl
  rw [eraseSramResult, hdone]
  cases w.getLsbD 13 <;> rfl

/-- Settles O27: the sequence's stretches one behind the other, and its return by DONE of the last status. -/
theorem eraseSramRun : Obligations.EraseSramRun := by
  intro s a b c w rest f fs hpc hcallers hmax hreplies ha hb hc
  have hrun := engineReaches_eraseSram hpc hmax hreplies ha hb hc
  have hreturn := State.settled_retDone (s := s.configured (eraseSramOps s.cfg.op) eraseSramCmds w)
    (q := .eraseSram) (n := 18) rfl rfl hcallers (eraseSramResult_eq w)
  rw [hreturn] at hrun
  exact hrun.reaches (imagesKept_settled fun a => by simp [State.configured, State.ran])

end Sys2Proof.Machine
end

section
/-! PROOFS. The rules for the stretches that the flash sequences are made of, beside those of the configuration sequences: a
transport operation other than a command's, a clocked wait (R178), a return of Ok, a loop; and what streams of operations leave
of the frequency and of the answers to come. -/

namespace Sys2Proof.Machine

open Sys2Proof.Claims

/-! What a stream leaves of the frequency and of the script. -/

/-- An operation whose captured bits are used takes an answer of the script (R120). -/
def TOp.readsBack : TOp → Bool
  | .dr _ _ _ cap => cap
  | _ => false

/-- An operation that keeps the frequency in force (R42). -/
def TOp.keepsFreq : TOp → Bool
  | .freq _ => false
  | _ => true

/-- A stream takes one answer of the script for each of its reads. -/
theorem afterOps_replies (x : Transport) : ∀ ops : List TOp,
    (afterOps x ops).replies = x.replies.drop (ops.countP TOp.readsBack)
  | [] => rfl
  | op :: ops => by
    have hop : (afterOp x op).replies = x.replies.drop (if op.readsBack then 1 else 0) := by
      cases op with
      | dr n out stop cap => cases cap <;> simp [afterOp, TOp.readsBack]
      | _ => rfl
    have hrest := afterOps_replies (afterOp x op) ops
    rw [hop, List.drop_drop] at hrest
    rw [List.countP_cons, Nat.add_comm]
    exact hrest

/-- A stream without a `FREQ` leaves the frequency in force. -/
theorem afterOps_freq {ops : List TOp} (h : ops.all TOp.keepsFreq = true) (x : Transport) :
    (afterOps x ops).freq = x.freq := by
  induction ops generalizing x with
  | nil => rfl
  | cons op ops ih =>
    obtain ⟨hop, hops⟩ := Bool.and_eq_true_iff.mp h
    have hkept : (afterOp x op).freq = x.freq := by
      cases op with
      | freq hz => cases hop
      | _ => rfl
    exact (ih hops (afterOp x op)).trans hkept

section

variable (o : OpCodes) (c : Cmd)

@[simp] theorem countP_cmdOps : (cmdOps o c).countP TOp.readsBack = 0 := rfl
@[simp] theorem countP_enableOps : (enableOps o).countP TOp.readsBack = 1 := rfl
@[simp] theorem countP_disableOps : (disableOps o).countP TOp.readsBack = 1 := rfl
@[simp] theorem countP_epilogueOps : (epilogueOps o).countP TOp.readsBack = 2 := rfl

@[simp] theorem countP_clkUsOps (hz : Nat) (us : Word) : (clkUsOps hz us).countP TOp.readsBack = 0 := by
  unfold clkUsOps
  split <;> rfl

@[simp] theorem keepsFreq_cmdOps : (cmdOps o c).all TOp.keepsFreq = true := rfl
@[simp] theorem keepsFreq_enableOps : (enableOps o).all TOp.keepsFreq = true := rfl
@[simp] theorem keepsFreq_epilogueOps : (epilogueOps o).all TOp.keepsFreq = true := rfl

@[simp] theorem readsBack_addrOp (a : Word) : (addrOp a).readsBack = false := rfl
@[simp] theorem readsBack_wordOp (pg : List Byte) (j : Nat) : (wordOp pg j).readsBack = false := rfl
@[simp] theorem keepsFreq_addrOp (a : Word) : (addrOp a).keepsFreq = true := rfl
@[simp] theorem keepsFreq_wordOp (pg : List Byte) (j : Nat) : (wordOp pg j).keepsFreq = true := rfl

@[simp] theorem keepsFreq_clkUsOps (hz : Nat) (us : Word) : (clkUsOps hz us).all TOp.keepsFreq = true := by
  unfold clkUsOps
  split <;> rfl

end

/-! What an operation and a return leave. -/

/-- Operations issued, no command among them. -/
def State.issues (s : State) (ops : List TOp) : State := { s with xport := afterOps s.xport ops }

/-- The caller `f` resumed, `fs` behind it. -/
def State.resume (s : State) (f : Frame) (fs : List Frame) : State := { s with pc := .at f.seq f.step, callers := fs }

/-- The index of the loop in progress set. -/
def State.withIndex (s : State) (i : Nat) : State := { s with fsm := { s.fsm with index := i } }

/-- WORD set. -/
def State.withWord (s : State) (j : Nat) : State := { s with word := BitVec.ofNat 6 j }

section

variable (s : State) (ops ops' : List TOp) (cs : List Cmd) (w : Word)

theorem State.issues_issues : (s.issues ops).issues ops' = s.issues (ops ++ ops') := by
  simp only [State.issues, afterOps_append]

theorem State.configured_issues : (s.configured ops cs w).issues ops' = s.configured (ops ++ ops') cs w := by
  simp only [State.issues, State.configured, State.ran, afterOps_append]

theorem State.issues_configured : (s.issues ops).configured ops' cs w = s.configured (ops ++ ops') cs w := by
  simp only [State.issues, State.configured, State.ran, afterOps_append]

end

/-! The operations that only issue (R120). -/

/-- The step of `w`, which is no clocked wait, issues `op` and takes nothing from it, whether it is a barrier or not. -/
def Issues (s : State) (w : Wire) (op : TOp) : Prop :=
  (∀ d, w ≠ .clkFor d) ∧ ∃ p, s.perform w = .ok ((s.issues [op]).withPerformed p)

theorem issues_flush (s : State) : Issues s .flush .flush := ⟨nofun, s.flush.xport.performed, rfl⟩

theorem issues_sleep (s : State) (us : Word) : Issues s (.sleep us) (.sleep us) := ⟨nofun, s.xport.performed, rfl⟩

theorem issues_setTap (s : State) (t : TapState) : Issues s (.setTap t) (.state t) := ⟨nofun, s.xport.performed, rfl⟩

theorem issues_holdState (s : State) : Issues s .holdState (.state s.cfg.eraseHoldState) :=
  ⟨nofun, s.xport.performed, rfl⟩

theorem issues_burst (s : State) : Issues s .burst (.clk 32) := ⟨nofun, s.xport.performed, rfl⟩

theorem State.moved?_op {s : State} {q : Seq} {n : Nat} {w : Wire} (hpc : s.pc = .at q n)
    (hm : microAt q n = some (.op w)) (hclk : ∀ d, w ≠ .clkFor d) : s.moved? = none := by
  cases w with
  | clkFor d => exact absurd rfl (hclk d)
  | _ => simp only [State.moved?, hpc, hm]

/-! The rules. -/

/-- Runs one behind another. -/
theorem engineReaches_iterate {σ : Nat → State} : ∀ {m : Nat}, (∀ j < m, EngineReaches (σ j) (σ (j + 1))) →
    EngineReaches (σ 0) (σ m)
  | 0, _ => EngineReaches.refl _
  | m + 1, h => (engineReaches_iterate fun j hj => h j (Nat.lt_succ_of_lt hj)).trans (h m (Nat.lt_succ_self m))

section

variable {s : State} {q : Seq} {n : Nat}

/-- A transport operation that only issues, whether it is a barrier or not. -/
theorem engineReaches_op {w : Wire} {op : TOp} (hm : microAt q n = some (.op w)) (hw : Issues (s.goto q n) w op) :
    EngineReaches (s.goto q n).settled ((s.issues [op]).goto q (n + 1)).settled := by
  obtain ⟨hclk, p, hw⟩ := hw
  rw [State.settled_of_rest (State.moved?_op rfl hm hclk)]
  refine EngineReaches.step_withPerformed (p := p) ?_
  rw [engineStep_wire rfl hm hw, State.advance_withPerformed]
  rfl

/-- A clocked wait, of any count (R178). -/
theorem engineReaches_clkFor {d : Delay} (hm : microAt q n = some (.op (.clkFor d))) : EngineReaches (s.goto q n).settled
    ((s.issues (clkUsOps s.xport.freq (s.delayUs d))).goto q (n + 1)).settled := by
  have hdelay : (s.goto q n).delayUs d = s.delayUs d := by cases d <;> rfl
  by_cases hzero : clockCount s.xport.freq (s.delayUs d) = 0
  · have hops : clkUsOps s.xport.freq (s.delayUs d) = [] := if_pos hzero
    have hmove : (s.goto q n).moved? = some ((s.goto q n).goto q (n + 1)) := by
      simp only [State.moved?, State.goto_pc, hm, hdelay, State.goto_xport, hzero, if_true]
    rw [hops, State.settled_of_move hmove]
    exact EngineReaches.refl _
  · have hrest : (s.goto q n).moved? = none := by
      simp only [State.moved?, State.goto_pc, hm, hdelay, State.goto_xport, hzero, if_false]
    rw [State.settled_of_rest hrest]
    refine EngineReaches.step ?_
    rw [engineStep_wire rfl hm rfl, State.clockFor_eq_afterOps, hdelay]
    rfl

/-- A call goes to the first entry of its sequence. -/
theorem State.settled_call {pass : Bool} {q' : Seq} (hm : microAt q n = some (.ctl (.call q' pass))) :
    (s.goto q n).settled = (s.callSeq q (n + 1) pass q').settled :=
  State.settled_ctl rfl hm

/-- A return of Ok to a caller. -/
theorem State.settled_retOk {f : Frame} {fs : List Frame} (hm : microAt q n = some (.ctl .retOk))
    (hcallers : s.callers = f :: fs) :
    (s.goto q n).settled = (({ s with fsm := { s.fsm with ret := .ok } } : State).resume f fs).settled := by
  rw [State.settled_ctl rfl hm, State.move, State.returnOutcome_of_not_fatal (s := s.goto q n) rfl hcallers]
  rfl

end

/-! The same rules behind a stretch that called Enable or Disable. -/

section

variable {s : State} {ops : List TOp} {cs : List Cmd} {v : Word} {q : Seq} {n : Nat}

theorem engineReaches_configured_op {w : Wire} {op : TOp} (hm : microAt q n = some (.op w))
    (hw : Issues ((s.configured ops cs v).goto q n) w op) :
    EngineReaches ((s.configured ops cs v).goto q n).settled ((s.configured (ops ++ [op]) cs v).goto q (n + 1)).settled := by
  rw [← State.configured_issues]
  exact engineReaches_op hm hw

theorem engineReaches_configured_clkFor {d : Delay} (hm : microAt q n = some (.op (.clkFor d)))
    (hfreq : ops.all TOp.keepsFreq = true) : EngineReaches ((s.configured ops cs v).goto q n).settled
      ((s.configured (ops ++ clkUsOps s.xport.freq (s.delayUs d)) cs v).goto q (n + 1)).settled := by
  have hrun := engineReaches_clkFor (s := s.configured ops cs v) hm
  have hdelay : (s.configured ops cs v).delayUs d = s.delayUs d := by cases d <;> rfl
  have hkept : (s.configured ops cs v).xport.freq = s.xport.freq := afterOps_freq hfreq s.xport
  rwa [hdelay, hkept, State.configured_issues] at hrun

/-- Behind such a stretch Ok is bound already. -/
theorem State.settled_configured_retOk {f : Frame} {fs : List Frame} (hm : microAt q n = some (.ctl .retOk))
    (hcallers : s.callers = f :: fs) :
    ((s.configured ops cs v).goto q n).settled = ((s.configured ops cs v).resume f fs).settled :=
  State.settled_retOk (s := s.configured ops cs v) hm hcallers

end

end Sys2Proof.Machine
end


section
/-! PROOFS. The image epilogue (R266, R404): the reload pair behind Disable, the flush, the sleep, the last status read. -/

namespace Sys2Proof.Machine

open Sys2Proof.Claims

theorem writeResult_eq (w : Word) :
    writeResult w = if flagSet w .done = true then .ok else .advisory .writeNotDone w := rfl

/-- The epilogue's stream with the flush and the sleep one behind the other. -/
theorem epilogueOps_eq (o : OpCodes) : epilogueOps o =
    disableOps o ++ cmdOps o .reload ++ cmdOps o .noop ++ [.flush] ++ [.sleep reloadSettleUs]
      ++ readOps o .readStatus := rfl

/-- What the epilogue leaves for its caller: the outcome bound, an Advisory logged. -/
def State.epilogued (s : State) (w : Word) : State :=
  { s.configured (epilogueOps s.cfg.op) epilogueCmds w with
      log := s.log ++ advisoryLog (writeResult w), fsm := { s.fsm with ret := writeResult w, latch := none } }

/-- The epilogue up to its return by DONE, and that return. -/
theorem engineReaches_epilogue {s : State} {a w : Word} {rest : List (List Byte)} {f : Frame} {fs : List Frame}
    (hpc : s.pc = .at .imageEpilogue 0) (hcallers : s.callers = f :: fs) (hmax : 1 ≤ s.cfg.pollMax.toNat)
    (hreplies : s.xport.replies = [leBytes a, leBytes w] ++ rest) (ha : a &&& 0x80 = 0) :
    EngineReaches s.settled ((s.epilogued w).resume f fs).settled := by
  have hlast : s.xport.replies.tail = leBytes w :: rest := congrArg List.tail hreplies
  have hdisable := engineReaches_callDisable (q := .imageEpilogue) (n := 0) rfl hreplies ha hmax
  rw [State.goto_of_pc hpc] at hdisable
  have hreload := (hdisable.trans (engineReaches_configured_command (c := .reload) rfl)).trans
    (engineReaches_configured_command (c := .noop) rfl)
  have hslept := (hreload.trans (engineReaches_configured_op rfl (issues_flush _))).trans
    (engineReaches_configured_op rfl (issues_sleep _ reloadSettleUs))
  have hread := hslept.trans (engineReaches_configured_statusRead ⟨rfl, rfl, rfl⟩ hlast)
  have hreturn : ((s.configured (epilogueOps s.cfg.op) epilogueCmds w).goto .imageEpilogue 10).settled =
      ((s.epilogued w).resume f fs).settled := State.settled_retDone rfl rfl hcallers (writeResult_eq w)
  rw [← hreturn, epilogueOps_eq]
  exact hread

/-- Settles O33: the epilogue's stretches one behind the other, and its return by DONE of the last status. -/
theorem epilogueRun : Obligations.EpilogueRun := by
  intro s a w rest f fs hpc hcallers hmax hreplies ha
  exact (engineReaches_epilogue hpc hcallers hmax hreplies ha).reaches
    (imagesKept_settled fun a => by simp [State.resume, State.epilogued, State.configured, State.ran])

end Sys2Proof.Machine
end

section
/-! PROOFS. One page of an image (R264, R265): the gap, Enable, the command, the address word, the 64 words, the clocked waits. -/

namespace Sys2Proof.Machine

open Sys2Proof.Claims

/-! The page in hand (R110, R263). -/

theorem State.curBase_eq (s : State) : s.curBase = baseOf s.fsm.image := by
  rw [State.curBase]
  cases s.fsm.image <;> rfl

theorem State.curImage_eq (s : State) : s.curImage = imageOf s s.fsm.image := by
  rw [State.curImage]
  cases s.fsm.image <;> rfl

/-- Where PAGE shows the loop's index, the page's address is the base page and that index. -/
theorem State.pageAddr_eq {s : State} (hpage : s.page = BitVec.ofNat 32 s.fsm.index) :
    s.pageAddr = baseOf s.fsm.image + BitVec.ofNat 32 s.fsm.index := by
  rw [State.pageAddr, State.curBase_eq, hpage]

/-- The content of the page in hand is that of the statements. -/
theorem State.curPage_eq {s : State} (hpage : s.page = BitVec.ofNat 32 s.fsm.index) :
    s.curPage = pageOf s s.fsm.image s.fsm.index := by
  rw [State.curPage, State.curImage_eq, State.pageAddr_eq hpage]
  refine List.map_congr_left fun j _ => ?_
  by_cases hsig : baseOf s.fsm.image + BitVec.ofNat 32 s.fsm.index = 0 ∧ j < 4
  · rw [if_pos hsig, hsig.1, pageByte_signature _ _ _ hsig.2]
  · rw [if_neg hsig, pageByte_image _ _ _ hsig]

theorem issues_addrShift {s : State} (hpage : s.page = BitVec.ofNat 32 s.fsm.index) :
    Issues s .addrShift (addrOp (baseOf s.fsm.image + BitVec.ofNat 32 s.fsm.index)) := by
  rw [← State.pageAddr_eq hpage]
  exact ⟨nofun, s.xport.performed, rfl⟩

theorem issues_wordShift {s : State} {j : Nat} (hpage : s.page = BitVec.ofNat 32 s.fsm.index) (hword : s.word.toNat = j) :
    Issues s .wordShift (wordOp (pageOf s s.fsm.image s.fsm.index) j) := by
  rw [← State.curPage_eq hpage, ← hword]
  exact ⟨nofun, s.xport.performed, rfl⟩

/-! The gap before a page (R264). -/

/-- The clocked wait before page `k` of an image: none at address 0. -/
def gapOps (s : State) (i : ImageSel) (k : Nat) : List TOp :=
  if baseOf i + BitVec.ofNat 32 k = 0 then [] else clkUsOps s.xport.freq s.cfg.tPageGap

@[simp] theorem countP_gapOps (s : State) (i : ImageSel) (k : Nat) : (gapOps s i k).countP TOp.readsBack = 0 := by
  unfold gapOps
  split <;> simp

@[simp] theorem keepsFreq_gapOps (s : State) (i : ImageSel) (k : Nat) : (gapOps s i k).all TOp.keepsFreq = true := by
  unfold gapOps
  split <;> simp

theorem engineReaches_pageGap {s : State} (hpage : s.page = BitVec.ofNat 32 s.fsm.index) :
    EngineReaches (s.goto .writePage 0).settled
      ((s.issues (gapOps s s.fsm.image s.fsm.index)).goto .writePage 2).settled := by
  have hbranch : (s.goto .writePage 0).settled = (s.goto .writePage (if s.pageAddr == 0 then 2 else 1)).settled :=
    State.settled_ctl rfl (c := .branch .pageAddrZero 2) rfl
  rw [hbranch, State.pageAddr_eq hpage, gapOps]
  by_cases hzero : baseOf s.fsm.image + BitVec.ofNat 32 s.fsm.index = 0
  · rw [if_pos (beq_iff_eq.mpr hzero), if_pos hzero]
    exact EngineReaches.refl _
  · rw [if_neg (mt beq_iff_eq.mp hzero), if_neg hzero]
    exact engineReaches_clkFor (d := .pageGap) rfl

/-! The words of a page (R264, R201). -/

/-- Word `j` of page `k` of an image, and the wait behind it. -/
def wordOps (s : State) (i : ImageSel) (k j : Nat) : List TOp :=
  [wordOp (pageOf s i k) j] ++ clkUsOps s.xport.freq (tWordOf s)

@[simp] theorem countP_wordOps (s : State) (i : ImageSel) (k j : Nat) : (wordOps s i k j).countP TOp.readsBack = 0 := by
  simp [wordOps]

@[simp] theorem keepsFreq_wordOps (s : State) (i : ImageSel) (k j : Nat) : (wordOps s i k j).all TOp.keepsFreq = true := by
  simp [wordOps]

@[simp] theorem countP_words (s : State) (i : ImageSel) (k m : Nat) :
    ((List.range m).flatMap (wordOps s i k)).countP TOp.readsBack = 0 := by
  simp [List.countP_flatMap, Function.comp_def]

@[simp] theorem keepsFreq_words (s : State) (i : ImageSel) (k m : Nat) :
    ((List.range m).flatMap (wordOps s i k)).all TOp.keepsFreq = true := by
  simp [List.all_flatMap]

/-- The state in which the first `m` words of the page in hand are shifted, and WORD shows `j`. -/
def State.afterWords (s : State) (m j : Nat) : State :=
  (s.issues ((List.range m).flatMap (wordOps s s.fsm.image s.fsm.index))).withWord j

/-- Word `j` and the wait behind it. -/
theorem engineReaches_word {s : State} (hpage : s.page = BitVec.ofNat 32 s.fsm.index) {j : Nat} (hj : j < 64) :
    EngineReaches ((s.afterWords j j).goto .writePage 8).settled ((s.afterWords (j + 1) j).goto .writePage 10).settled := by
  have hword : (BitVec.ofNat 6 j).toNat = j := Nat.mod_eq_of_lt hj
  have hshift := engineReaches_op (s := s.afterWords j j) (q := .writePage) (n := 8)
    (op := wordOp (pageOf s s.fsm.image s.fsm.index) j) rfl (issues_wordShift hpage hword)
  have hwait := engineReaches_clkFor (s := (s.afterWords j j).issues [wordOp (pageOf s s.fsm.image s.fsm.index) j])
    (q := .writePage) (n := 9) (d := .word) rfl
  have hfreq : ((s.afterWords j j).issues [wordOp (pageOf s s.fsm.image s.fsm.index) j]).xport.freq = s.xport.freq :=
    afterOps_freq (keepsFreq_words s _ _ j) s.xport
  have hafter : (((s.afterWords j j).issues [wordOp (pageOf s s.fsm.image s.fsm.index) j]).issues
      (clkUsOps s.xport.freq (tWordOf s))) = s.afterWords (j + 1) j := by
    simp only [State.afterWords, State.issues, State.withWord, List.range_succ, List.flatMap_append,
      List.flatMap_singleton, wordOps, afterOps_append]
  rw [hfreq] at hwait
  rw [← hafter]
  exact hshift.trans hwait

theorem State.settled_wordNext {s : State} {j : Nat} (hj : j + 1 < 64) :
    ((s.withWord j).goto .writePage 10).settled = ((s.withWord (j + 1)).goto .writePage 8).settled := by
  have hword : (BitVec.ofNat 6 j).toNat = j := Nat.mod_eq_of_lt (by omega)
  have hnext : (((s.withWord j).goto .writePage 10).word.toNat + 1 < wordsPerPage) := by
    rw [show ((s.withWord j).goto .writePage 10).word.toNat = j from hword]
    exact hj
  rw [State.settled_ctl rfl (c := .wordNext 8) rfl, State.move, if_pos hnext, State.withWord, State.withWord,
    BitVec.ofNat_add]
  rfl

theorem State.settled_lastWord {s : State} :
    ((s.withWord 63).goto .writePage 10).settled = ((s.withWord 63).goto .writePage 11).settled :=
  State.settled_ctl rfl (c := .wordNext 8) rfl

/-- The 64 words of a page. -/
theorem engineReaches_words {s : State} (hpage : s.page = BitVec.ofNat 32 s.fsm.index) :
    EngineReaches (s.goto .writePage 7).settled ((s.afterWords 64 63).goto .writePage 11).settled := by
  have hstart : (s.goto .writePage 7).settled = ((s.afterWords 0 0).goto .writePage 8).settled :=
    State.settled_ctl rfl (c := .wordInit) rfl
  have hfirst : EngineReaches ((s.afterWords 0 0).goto .writePage 8).settled
      ((s.afterWords 63 63).goto .writePage 8).settled :=
    engineReaches_iterate (σ := fun j => ((s.afterWords j j).goto .writePage 8).settled) fun j hj => by
      have hword := engineReaches_word hpage (show j < 64 by omega)
      rwa [State.afterWords, State.afterWords, State.settled_wordNext (by omega)] at hword
  have hlast := engineReaches_word hpage (show 63 < 64 by decide)
  rw [State.afterWords, State.afterWords, State.settled_lastWord] at hlast
  rw [hstart]
  exact hfirst.trans hlast

/-- The words behind a stretch that called Enable. -/
theorem engineReaches_configured_words {s : State} {ops : List TOp} {cs : List Cmd} {v : Word}
    (hpage : s.page = BitVec.ofNat 32 s.fsm.index) (hfreq : ops.all TOp.keepsFreq = true) :
    EngineReaches ((s.configured ops cs v).goto .writePage 7).settled
      (((s.withWord 63).configured (ops ++ (List.range 64).flatMap (wordOps s s.fsm.image s.fsm.index)) cs v).goto
        .writePage 11).settled := by
  have hops : wordOps (s.configured ops cs v) s.fsm.image s.fsm.index = wordOps s s.fsm.image s.fsm.index := by
    have hkept : (s.configured ops cs v).xport.freq = s.xport.freq := afterOps_freq hfreq s.xport
    funext j
    rw [wordOps, hkept]
    rfl
  have hwords := engineReaches_words (s := s.configured ops cs v) hpage
  rw [State.afterWords, show (s.configured ops cs v).fsm.image = s.fsm.image from rfl,
    show (s.configured ops cs v).fsm.index = s.fsm.index from rfl, hops, State.configured_issues] at hwords
  exact hwords

/-! The page. -/

theorem pageOps_eq (s : State) (i : ImageSel) (k : Nat) : pageOps s i k =
    gapOps s i k ++ enableOps s.cfg.op ++ cmdOps s.cfg.op .flashProgram ++ [addrOp (baseOf i + BitVec.ofNat 32 k)]
      ++ clkUsOps s.xport.freq s.cfg.tAddr ++ (List.range 64).flatMap (wordOps s i k)
      ++ clkUsOps s.xport.freq s.cfg.tPageTrail := rfl

@[simp] theorem countP_pageOps (s : State) (i : ImageSel) (k : Nat) : (pageOps s i k).countP TOp.readsBack = 1 := by
  simp [pageOps_eq]

@[simp] theorem keepsFreq_pageOps (s : State) (i : ImageSel) (k : Nat) : (pageOps s i k).all TOp.keepsFreq = true := by
  simp [pageOps_eq]

/-- What a page, or pages in a row, leave, WORD at its last value. -/
def State.paged (s : State) (ops : List TOp) (cs : List Cmd) (a : Word) : State := (s.withWord 63).configured ops cs a

/-- A page from its first step to its return. -/
theorem engineReaches_page {s : State} {a : Word} {rest : List (List Byte)} {f : Frame} {fs : List Frame}
    (hpc : s.pc = .at .writePage 0) (hcallers : s.callers = f :: fs) (hpage : s.page = BitVec.ofNat 32 s.fsm.index)
    (hmax : 1 ≤ s.cfg.pollMax.toNat) (hreplies : s.xport.replies = leBytes a :: rest) (ha : a &&& 0x80 = 0x80) :
    EngineReaches s.settled
      ((s.paged (pageOps s s.fsm.image s.fsm.index) pageCmds a).resume f fs).settled := by
  have hgap := engineReaches_pageGap hpage
  have hscript : (afterOps s.xport (gapOps s s.fsm.image s.fsm.index)).replies = leBytes a :: rest := by
    simpa [afterOps_replies] using hreplies
  have henable := engineReaches_callEnable (s := s.issues (gapOps s s.fsm.image s.fsm.index)) (q := .writePage) (n := 2) rfl
    hscript ha hmax
  rw [State.issues_configured] at henable
  have hcommand := (hgap.trans henable).trans (engineReaches_configured_command (c := .flashProgram) rfl)
  have haddr := hcommand.trans (engineReaches_configured_op
    (op := addrOp (baseOf s.fsm.image + BitVec.ofNat 32 s.fsm.index)) rfl (issues_addrShift hpage))
  have hwait := haddr.trans (engineReaches_configured_clkFor (d := .addr) rfl (by simp))
  have hwords := hwait.trans (engineReaches_configured_words hpage (by simp))
  have htrail := hwords.trans (engineReaches_configured_clkFor (d := .pageTrail) rfl (by simp))
  rw [State.goto_of_pc hpc] at htrail
  have hreturn := State.settled_configured_retOk (s := s.withWord 63) (ops := pageOps s s.fsm.image s.fsm.index)
    (cs := pageCmds) (v := a) (q := .writePage) (n := 12) rfl hcallers
  rw [State.paged, ← hreturn]
  exact htrail

/-- Settles O31: the page's stretches one behind the other. -/
theorem pageRun : Obligations.PageRun := by
  intro s a rest f fs hpc hcallers hpage hmax hreplies ha
  exact (engineReaches_page hpc hcallers hpage hmax hreplies ha).reaches
    (imagesKept_settled fun a => by simp [State.resume, State.paged, State.withWord, State.configured, State.ran])

end Sys2Proof.Machine
end

section
/-! PROOFS. The flash erase: an attempt with its raw bursts and its hold (R252 to R254), and when no attempt follows (R250,
R255). -/

namespace Sys2Proof.Machine

open Sys2Proof.Claims

/-! The raw bursts (R253, R254). -/

/-- The state in which `m` raw bursts are issued, the loop's index at `i`. -/
def State.afterBursts (s : State) (m i : Nat) : State := (s.issues (List.replicate m (.clk 32))).withIndex i

theorem bursts_pos (s : State) : 0 < bursts s := by
  unfold bursts
  split <;> decide

theorem engineReaches_burst {s : State} {j : Nat} : EngineReaches ((s.afterBursts j j).goto .eraseAttempt 6).settled
    ((s.afterBursts (j + 1) j).goto .eraseAttempt 7).settled := by
  have hburst := engineReaches_op (s := s.afterBursts j j) (q := .eraseAttempt) (n := 6) rfl (issues_burst _)
  have hafter : (s.afterBursts j j).issues [.clk 32] = s.afterBursts (j + 1) j := by
    simp only [State.afterBursts, State.issues, State.withIndex, List.replicate_succ', afterOps_append]
  rwa [hafter] at hburst

theorem State.settled_burstNext {s : State} {m j : Nat} (hj : j + 1 < bursts s) :
    ((s.afterBursts m j).goto .eraseAttempt 7).settled = ((s.afterBursts m (j + 1)).goto .eraseAttempt 6).settled := by
  rw [State.settled_ctl rfl (c := .burstNext 6) rfl]
  exact congrArg State.settled (if_pos hj)

theorem State.settled_lastBurst {s : State} {m j : Nat} (hj : ¬ j + 1 < bursts s) :
    ((s.afterBursts m j).goto .eraseAttempt 7).settled = ((s.afterBursts m j).goto .eraseAttempt 8).settled := by
  rw [State.settled_ctl rfl (c := .burstNext 6) rfl]
  exact congrArg State.settled (if_neg hj)

/-- All raw bursts. -/
theorem engineReaches_bursts {s : State} : EngineReaches (s.goto .eraseAttempt 5).settled
    ((s.afterBursts (bursts s) (bursts s - 1)).goto .eraseAttempt 8).settled := by
  have hcount : bursts s - 1 + 1 = bursts s := Nat.sub_add_cancel (bursts_pos s)
  have hstart : (s.goto .eraseAttempt 5).settled = ((s.afterBursts 0 0).goto .eraseAttempt 6).settled :=
    State.settled_ctl rfl (c := .burstInit) rfl
  have hfirst : EngineReaches ((s.afterBursts 0 0).goto .eraseAttempt 6).settled
      ((s.afterBursts (bursts s - 1) (bursts s - 1)).goto .eraseAttempt 6).settled :=
    engineReaches_iterate (σ := fun j => ((s.afterBursts j j).goto .eraseAttempt 6).settled) fun j hj => by
      have hburst := engineReaches_burst (s := s) (j := j)
      rwa [State.settled_burstNext (by omega)] at hburst
  have hlast := engineReaches_burst (s := s) (j := bursts s - 1)
  rw [hcount, State.settled_lastBurst (by omega)] at hlast
  rw [hstart]
  exact hfirst.trans hlast

/-- The raw bursts with the move to SHIFT_DR before them. -/
def burstOps (s : State) : List TOp := [.state .shiftDR] ++ List.replicate (bursts s) (.clk 32)

theorem engineReaches_rawBursts {s : State} : EngineReaches (s.goto .eraseAttempt 4).settled
    (((s.withIndex (bursts s - 1)).issues (burstOps s)).goto .eraseAttempt 8).settled := by
  have hshift := engineReaches_op (s := s) (q := .eraseAttempt) (n := 4) rfl (issues_setTap _ .shiftDR)
  have hall := hshift.trans engineReaches_bursts
  rw [State.afterBursts, State.issues_issues] at hall
  exact hall

/-- Toggle stays in SHIFT_DR, however often (R170). -/
theorem afterOps_bursts_tap (x : Transport) (m : Nat) (h : x.tap = .shiftDR) :
    (afterOps x (List.replicate m (.clk 32))).tap = .shiftDR := by
  induction m generalizing x with
  | zero => exact h
  | succ m ih => exact ih (afterOp x (.clk 32)) (by rw [afterOp, h]; rfl)

/-! The attempt (R252). -/

/-- The hold state's move: none when it is SHIFT_DR. -/
def holdOps (s : State) : List TOp := if s.cfg.eraseHoldState = .shiftDR then [] else [.state s.cfg.eraseHoldState]

theorem engineReaches_hold {s : State} :
    EngineReaches (s.goto .eraseAttempt 8).settled ((s.issues (holdOps s)).goto .eraseAttempt 10).settled := by
  have hbranch : (s.goto .eraseAttempt 8).settled =
      (s.goto .eraseAttempt (if s.cfg.eraseHoldState == .shiftDR then 10 else 9)).settled :=
    State.settled_ctl rfl (c := .branch .holdInShiftDR 10) rfl
  rw [hbranch, holdOps]
  by_cases hhold : s.cfg.eraseHoldState = .shiftDR
  · rw [if_pos (beq_iff_eq.mpr hhold), if_pos hhold]
    exact EngineReaches.refl _
  · rw [if_neg (mt beq_iff_eq.mp hhold), if_neg hhold]
    exact engineReaches_op rfl (issues_holdState _)

section

variable {s : State} {ops : List TOp} {cs : List Cmd} {v : Word}

theorem engineReaches_configured_rawBursts : EngineReaches ((s.configured ops cs v).goto .eraseAttempt 4).settled
    (((s.withIndex (bursts s - 1)).configured (ops ++ burstOps s) cs v).goto .eraseAttempt 8).settled := by
  rw [← State.configured_issues]
  exact engineReaches_rawBursts (s := s.configured ops cs v)

theorem engineReaches_configured_hold : EngineReaches ((s.configured ops cs v).goto .eraseAttempt 8).settled
    ((s.configured (ops ++ holdOps s) cs v).goto .eraseAttempt 10).settled := by
  rw [← State.configured_issues]
  exact engineReaches_hold (s := s.configured ops cs v)

end

@[simp] theorem countP_burstOps (s : State) : (burstOps s).countP TOp.readsBack = 0 := by
  simp [burstOps, TOp.readsBack, List.countP_replicate]

@[simp] theorem keepsFreq_burstOps (s : State) : (burstOps s).all TOp.keepsFreq = true := by
  simp [burstOps, TOp.keepsFreq]

@[simp] theorem countP_holdOps (s : State) : (holdOps s).countP TOp.readsBack = 0 := by
  unfold holdOps
  split <;> rfl

@[simp] theorem keepsFreq_holdOps (s : State) : (holdOps s).all TOp.keepsFreq = true := by
  unfold holdOps
  split <;> rfl

theorem eraseAttemptOps_eq (s : State) : eraseAttemptOps s =
    enableOps s.cfg.op ++ cmdOps s.cfg.op .flashErase ++ [.state .runTestIdle] ++ burstOps s ++ holdOps s
      ++ clkUsOps s.xport.freq eraseHoldUs ++ disableOps s.cfg.op ++ readOps s.cfg.op .readStatus := by
  simp only [eraseAttemptOps, burstOps, holdOps, List.append_assoc, List.cons_append, List.nil_append]
  rfl

/-- The commands of an erase attempt when each poll matches at its first read. -/
def eraseAttemptCmds : List Cmd := [.enable, .readStatus, .flashErase, .disable, .noop, .readStatus, .readStatus]

/-- An erase attempt from its first step to its return. -/
theorem engineReaches_eraseAttempt {s : State} {a b w : Word} {rest : List (List Byte)} {f : Frame} {fs : List Frame}
    (hpc : s.pc = .at .eraseAttempt 0) (hcallers : s.callers = f :: fs) (hmax : 1 ≤ s.cfg.pollMax.toNat)
    (hreplies : s.xport.replies = [leBytes a, leBytes b, leBytes w] ++ rest) (ha : a &&& 0x80 = 0x80)
    (hb : b &&& 0x80 = 0) : EngineReaches s.settled
      (((s.withIndex (bursts s - 1)).configured (eraseAttemptOps s) eraseAttemptCmds w).resume f fs).settled := by
  have henable := engineReaches_callEnable (q := .eraseAttempt) (n := 0) rfl hreplies ha hmax
  have herase := (henable.trans (engineReaches_configured_command (c := .flashErase) rfl)).trans
    (engineReaches_configured_op rfl (issues_setTap _ .runTestIdle))
  have hhold := (herase.trans engineReaches_configured_rawBursts).trans engineReaches_configured_hold
  have hwait := hhold.trans (engineReaches_configured_clkFor (d := .eraseHold) rfl (by simp [TOp.keepsFreq]))
  have hdisable := hwait.trans (engineReaches_configured_callDisable (rs := leBytes w :: rest) rfl
    (by simp [afterOps_replies, State.withIndex, TOp.readsBack, hreplies]) hb hmax)
  have hread := hdisable.trans (engineReaches_configured_statusRead (w := w) (rs := rest) ⟨rfl, rfl, rfl⟩
    (by simp [afterOps_replies, State.withIndex, TOp.readsBack, hreplies]))
  rw [State.goto_of_pc hpc] at hread
  have hreturn := State.settled_configured_retOk (s := s.withIndex (bursts s - 1)) (ops := eraseAttemptOps s)
    (cs := eraseAttemptCmds) (v := w) (q := .eraseAttempt) (n := 15) rfl hcallers
  rw [← hreturn, eraseAttemptOps_eq]
  exact hread

/-- What an attempt leaves for its caller, field by field. -/
theorem State.withIndex_configured_resume (s : State) (i : Nat) (ops : List TOp) (cs : List Cmd) (w : Word) (f : Frame)
    (fs : List Frame) : ((s.withIndex i).configured ops cs w).resume f fs =
      { s with xport := afterOps s.xport ops, st := some w, pollCnt := 1, device := s.device ++ effects cs,
               fsm := { s.fsm with ret := .ok, index := i, latch := none }, pc := .at f.seq f.step, callers := fs } := rfl

/-- Settles O30: the attempt's stretches one behind the other; its raw bursts, of which each toggle stays in SHIFT_DR. -/
theorem eraseAttemptRun : Obligations.EraseAttemptRun := by
  refine ⟨fun s a b w rest f fs hpc hcallers hmax hreplies ha hb => ?attempt, fun s hpc => ⟨?bursts, ?tap⟩⟩
  case attempt =>
    have hrun := engineReaches_eraseAttempt hpc hcallers hmax hreplies ha hb
    rw [State.withIndex_configured_resume] at hrun
    exact hrun.reaches (imagesKept_settled fun a => by simp)
  case bursts =>
    have hrun := engineReaches_rawBursts (s := s)
    rw [State.goto_of_pc hpc, State.settled_of_rest (State.moved?_op hpc (w := .setTap .shiftDR) rfl nofun)] at hrun
    exact hrun.reaches (imagesKept_settled fun a => ⟨rfl, rfl⟩)
  case tap => exact afterOps_bursts_tap (afterOp s.xport (.state .shiftDR)) (bursts s) rfl

/-! The loop of attempts (R250, R255). -/

/-- The last status read of an attempt: its word in ST, and Ok for the loop. -/
def State.attempted (s : State) (w : Word) (fs : List Frame) : State :=
  { s.captureWord with st := some w, callers := fs, fsm := { s.fsm with ret := .ok } }

theorem step_lastAttemptRead {s : State} {w : Word} {fs : List Frame} (hturn : engineTurn s)
    (hpc : s.pc = .at .eraseAttempt 14) (hcallers : s.callers = ⟨.eraseFlash, 7, true⟩ :: fs) (hw : s.answerWord = w) :
    step s = .next ((s.attempted w fs).goto .eraseFlash 7).settled := by
  have hreturn := State.settled_retOk (s := s.readSt) (q := .eraseAttempt) (n := 15) rfl hcallers
  rw [step_of_engine hturn, engineStep_wire hpc (w := .readSt) rfl rfl, State.advance, ← hw,
    show s.readSt.pc = .at .eraseAttempt 14 from hpc]
  exact congrArg Host.Outcome.next hreturn

section

variable {s : State} {w : Word} {f : Frame} {fs : List Frame}

/-- No attempt follows: the return by DONE is next. -/
theorem State.settled_lastAttempt (hst : s.st = some w) (hno : flagSet w .done → eraseAttempts ≤ s.attempt.toNat + 1) :
    (s.goto .eraseFlash 7).settled = (s.goto .eraseFlash 8).settled := by
  have hno' : ¬ (flagSet (statusOr s.st) .done ∧ s.attempt.toNat + 1 < eraseAttempts) := by
    rw [hst]
    exact fun h => Nat.not_lt.mpr (hno h.1) h.2
  rw [State.settled_ctl rfl (c := .attemptNext 6) rfl]
  exact congrArg State.settled (if_neg hno')

/-- The loop ended with DONE clear returns Ok. -/
theorem State.settled_attemptsOk (hst : s.st = some w) (hcallers : s.callers = f :: fs) (hclear : flagSet w .done = false) :
    (s.goto .eraseFlash 7).settled =
      (({ s with fsm := { s.fsm with ret := .ok } } : State).resume f fs).settled := by
  have hreturn := State.settled_retDone (o := .ok) (q := .eraseFlash) (n := 8) rfl hst hcallers (if_pos hclear).symm
  rw [advisoryLog, List.append_nil] at hreturn
  exact (State.settled_lastAttempt hst fun hset => absurd (hclear.symm.trans hset) nofun).trans hreturn

/-- The loop ended with DONE set logs and returns the Advisory. -/
theorem State.settled_attemptsExhausted (hst : s.st = some w) (hcallers : s.callers = f :: fs) (hset : flagSet w .done = true)
    (hall : eraseAttempts ≤ s.attempt.toNat + 1) : (s.goto .eraseFlash 7).settled =
      (({ s with log := s.log ++ [⟨.error, .flashEraseDoneSet, w⟩],
                 fsm := { s.fsm with ret := .advisory .flashEraseDoneSet w } } : State).resume f fs).settled :=
  (State.settled_lastAttempt hst fun _ => hall).trans
    (State.settled_retDone (o := .advisory .flashEraseDoneSet w) rfl hst hcallers (by rw [hset]; rfl))

/-- The next attempt comes to its first command, Enable's. -/
theorem State.settled_nextAttempt (hst : s.st = some w) (hset : flagSet w .done = true)
    (hmore : s.attempt.toNat + 1 < eraseAttempts) : (s.goto .eraseFlash 7).settled =
      { s with attempt := s.attempt + 1, pc := .at .enable 0,
               callers := ⟨.eraseAttempt, 1, true⟩ :: ⟨.eraseFlash, 7, true⟩ :: s.callers } := by
  have hyes : flagSet (statusOr s.st) .done ∧ s.attempt.toNat + 1 < eraseAttempts := by
    rw [hst]
    exact ⟨hset, hmore⟩
  have hagain : (s.goto .eraseFlash 7).settled =
      (({ s with attempt := s.attempt + 1 } : State).goto .eraseFlash 6).settled := by
    rw [State.settled_ctl rfl (c := .attemptNext 6) rfl]
    exact congrArg State.settled (if_pos hyes)
  rw [hagain, State.settled_call (q' := .eraseAttempt) rfl,
    State.settled_ctl (q := .eraseAttempt) (n := 0) rfl (c := .call .enable true) rfl]
  exact State.settled_of_rest (State.moved?_cmd (q := .enable) (n := 0) rfl rfl)

end

/-- Settles O26: the attempt's return of Ok, then the loop's test of DONE and of ATTEMPT in its three cases. -/
theorem eraseLoopExitsEarly : Obligations.EraseLoopExitsEarly := by
  rintro s u w f fs hturn hpc hcallers hw rfl
  have hstep := step_lastAttemptRead hturn hpc hcallers hw
  refine ⟨fun hclear => ?_, fun hset hmore => ?_, fun hset hall => ?_⟩
  · exact hstep.trans (congrArg Host.Outcome.next (State.settled_attemptsOk rfl rfl hclear))
  · exact hstep.trans (congrArg Host.Outcome.next (State.settled_nextAttempt rfl hset hmore))
  · exact hstep.trans (congrArg Host.Outcome.next (State.settled_attemptsExhausted rfl rfl hset hall))

end Sys2Proof.Machine
end

section
/-! PROOFS. WriteImage (R262, R110): the pages of the image in hand in order, then one epilogue. -/

namespace Sys2Proof.Machine

open Sys2Proof.Claims

/-! What the streams of pages are read from. -/

/-- The states agree in all that a page's stream is read from. -/
structure PagesAlike (s t : State) : Prop where
  freq : t.xport.freq = s.xport.freq
  cfg : t.cfg = s.cfg
  var : t.var = s.var
  bs : t.bs = s.bs
  mcu : t.mcu = s.mcu

namespace PagesAlike

variable {s t : State} (h : PagesAlike s t) (i : ImageSel)
include h

theorem imageOf_eq : imageOf t i = imageOf s i := by
  cases i with
  | main => exact congrArg Bitstream.image h.bs
  | mcu => exact h.mcu

theorem pages_eq : pages t i = pages s i := by
  rw [pages, pages, h.imageOf_eq]

theorem pageOps_eq : pageOps t i = pageOps s i := by
  funext k
  simp only [pageOps, pageOf, tWordOf, h.imageOf_eq, h.freq, h.cfg, h.var]

theorem writeImageOps_eq : writeImageOps t i = writeImageOps s i := by
  rw [writeImageOps, writeImageOps, h.pages_eq, h.pageOps_eq, h.cfg]

theorem writeImageCmds_eq : writeImageCmds t i = writeImageCmds s i := by
  rw [writeImageCmds, writeImageCmds, h.pages_eq]

end PagesAlike

@[simp] theorem countP_pages (s : State) (i : ImageSel) (m : Nat) :
    ((List.range m).flatMap (pageOps s i)).countP TOp.readsBack = m := by
  simp [List.countP_flatMap, Function.comp_def]

@[simp] theorem countP_writeImageOps (s : State) (i : ImageSel) :
    (writeImageOps s i).countP TOp.readsBack = pages s i + 2 := by
  simp [writeImageOps]

@[simp] theorem keepsFreq_writeImageOps (s : State) (i : ImageSel) :
    (writeImageOps s i).all TOp.keepsFreq = true := by
  simp [writeImageOps, List.all_flatMap]

theorem pages_pos {s : State} {i : ImageSel} (h : 0 < (imageOf s i).bitLen / 8) : 0 < pages s i :=
  Nat.div_pos (by omega) (by decide)

theorem State.pageCount_eq (s : State) : pageCount s.curImage = pages s s.fsm.image := by
  rw [State.curImage_eq]
  rfl

/-! The pages (R262). -/

/-- The loop of pages at page `k`: its index, and PAGE, which shows it (log 23). -/
def State.atPage (s : State) (k : Nat) : State :=
  { s with page := BitVec.ofNat 32 k, fsm := { s.fsm with index := k } }

theorem State.atPage_self {s : State} (hpage : s.page = BitVec.ofNat 32 s.fsm.index) : s.atPage s.fsm.index = s := by
  rw [State.atPage, ← hpage]

/-- Pages behind a page add up. -/
theorem State.paged_atPage_paged (s : State) (ops ops' : List TOp) (cs cs' : List Cmd) (a v : Word) (j k : Nat) :
    (((s.paged ops cs a).atPage j).atPage k).paged ops' cs' v = (s.atPage k).paged (ops ++ ops') (cs ++ cs') v := by
  simp only [State.paged, State.atPage, State.withWord, State.configured, State.ran, afterOps_append, effects_append,
    List.append_assoc]

/-- The call of one page. -/
theorem engineReaches_callPage {s : State} {a : Word} {rest : List (List Byte)}
    (hpage : s.page = BitVec.ofNat 32 s.fsm.index) (hmax : 1 ≤ s.cfg.pollMax.toNat)
    (hreplies : s.xport.replies = leBytes a :: rest) (ha : a &&& 0x80 = 0x80) :
    EngineReaches (s.goto .writeImage 1).settled
      ((s.paged (pageOps s s.fsm.image s.fsm.index) pageCmds a).goto .writeImage 2).settled := by
  have hpageRun := engineReaches_page (s := s.callSeq .writeImage 2 true .writePage) rfl rfl hpage hmax hreplies ha
  have hops : pageOps (s.callSeq .writeImage 2 true .writePage) = pageOps s := by
    funext i
    exact PagesAlike.pageOps_eq ⟨rfl, rfl, rfl, rfl, rfl⟩ i
  rw [hops] at hpageRun
  rw [State.settled_call rfl]
  exact hpageRun

theorem State.settled_pageNext {s : State} (h : s.fsm.index + 1 < pages s s.fsm.image) :
    (s.goto .writeImage 2).settled = ((s.atPage (s.fsm.index + 1)).goto .writeImage 1).settled := by
  rw [← State.pageCount_eq] at h
  rw [State.settled_ctl rfl (c := .pageNext 1) rfl]
  exact congrArg State.settled (if_pos h)

theorem State.settled_lastPage {s : State} (h : ¬ s.fsm.index + 1 < pages s s.fsm.image) :
    (s.goto .writeImage 2).settled = (s.goto .writeImage 3).settled := by
  rw [← State.pageCount_eq] at h
  rw [State.settled_ctl rfl (c := .pageNext 1) rfl]
  exact congrArg State.settled (if_neg h)

/-- From the page in hand on, the pages that are left, one for each answer of Enable's poll. -/
theorem engineReaches_pages {rest : List (List Byte)} : ∀ {as : List Word} {a : Word} {s : State},
    s.page = BitVec.ofNat 32 s.fsm.index → 1 ≤ s.cfg.pollMax.toNat →
    s.xport.replies = (a :: as).map leBytes ++ rest → (∀ v ∈ a :: as, v &&& 0x80 = 0x80) →
    s.fsm.index + (as.length + 1) = pages s s.fsm.image →
    ∃ v, EngineReaches (s.goto .writeImage 1).settled (((s.atPage (pages s s.fsm.image - 1)).paged
      ((List.range' s.fsm.index (as.length + 1)).flatMap (pageOps s s.fsm.image))
      (List.replicate (as.length + 1) pageCmds).flatten v).goto .writeImage 3).settled
  | [], a, s, hpage, hmax, hreplies, hyes, hcount => by
    have hcall := engineReaches_callPage hpage hmax hreplies (hyes a List.mem_cons_self)
    have hlast : ¬ s.fsm.index + 1 < pages s s.fsm.image := hcount.not_lt
    have hindex : pages s s.fsm.image - 1 = s.fsm.index := by rw [← hcount]; rfl
    rw [State.settled_lastPage (s := s.paged _ _ _) hlast] at hcall
    refine ⟨a, ?_⟩
    rw [hindex, State.atPage_self hpage, List.length_nil, List.range'_one, List.flatMap_singleton, List.replicate_one,
      List.flatten_singleton]
    exact hcall
  | b :: as, a, s, hpage, hmax, hreplies, hyes, hcount => by
    rw [List.length_cons] at hcount
    have hcall := engineReaches_callPage hpage hmax hreplies (hyes a List.mem_cons_self)
    have hnext : s.fsm.index + 1 < pages s s.fsm.image := by omega
    rw [State.settled_pageNext (s := s.paged _ _ _) hnext] at hcall
    obtain ⟨t, ht⟩ : ∃ t, t = (s.paged (pageOps s s.fsm.image s.fsm.index) pageCmds a).atPage (s.fsm.index + 1) :=
      ⟨_, rfl⟩
    have halike : PagesAlike s t := by
      rw [ht]
      exact ⟨afterOps_freq (keepsFreq_pageOps s _ _) s.xport, rfl, rfl, rfl, rfl⟩
    have himage : t.fsm.image = s.fsm.image := by rw [ht]; rfl
    have hindex : t.fsm.index = s.fsm.index + 1 := by rw [ht]; rfl
    have hscript : t.xport.replies = (b :: as).map leBytes ++ rest := by
      rw [ht]
      show (afterOps s.xport _).replies = _
      simp [afterOps_replies, hreplies]
    obtain ⟨v, hothers⟩ := engineReaches_pages (as := as) (a := b) (s := t) (by rw [hindex, ht]; rfl)
      (by rwa [halike.cfg]) hscript (fun u hu => hyes u (List.mem_cons_of_mem a hu)) (by rw [hindex, himage, halike.pages_eq]; omega)
    refine ⟨v, ?_⟩
    rw [himage, hindex, halike.pages_eq, halike.pageOps_eq, ht, State.paged_atPage_paged] at hothers
    rw [List.length_cons, List.range'_succ, List.flatMap_cons, List.replicate_succ, List.flatten_cons]
    exact hcall.trans hothers

/-! WriteImage. -/

/-- What WriteImage of an image leaves for its caller: the epilogue's outcome bound, an Advisory logged. -/
def State.wrote (s : State) (i : ImageSel) (w : Word) : State :=
  { s with xport := afterOps s.xport (writeImageOps s i), device := s.device ++ effects (writeImageCmds s i), st := some w,
           pollCnt := 1, page := BitVec.ofNat 32 (pages s i - 1), word := 63, log := s.log ++ advisoryLog (writeResult w),
           fsm := { s.fsm with ret := writeResult w, index := pages s i - 1, latch := none } }

theorem writeResult_not_fatal (w : Word) : (writeResult w).isFatal = false := by
  unfold writeResult
  split <;> rfl

theorem State.settled_retRet {s : State} {f : Frame} {fs : List Frame} (hcallers : s.callers = f :: fs)
    (hret : s.fsm.ret.isFatal = false) : (s.goto .writeImage 4).settled = (s.resume f fs).settled := by
  rw [State.settled_ctl rfl (c := .retRet) rfl]
  exact congrArg State.settled (State.returnOutcome_of_not_fatal (s := s.goto .writeImage 4) hret hcallers)

/-- The epilogue behind the pages, and WriteImage's return of what it returned. -/
theorem engineReaches_callEpilogue {s : State} {a w : Word} {rest : List (List Byte)} {f : Frame} {fs : List Frame}
    (hcallers : s.callers = f :: fs) (hmax : 1 ≤ s.cfg.pollMax.toNat)
    (hreplies : s.xport.replies = [leBytes a, leBytes w] ++ rest) (ha : a &&& 0x80 = 0) :
    EngineReaches (s.goto .writeImage 3).settled ((s.epilogued w).resume f fs).settled := by
  have hrun := engineReaches_epilogue (s := s.callSeq .writeImage 4 true .imageEpilogue) rfl rfl hmax hreplies ha
  rw [State.settled_call rfl, ← State.settled_retRet (s := s.epilogued w) hcallers (writeResult_not_fatal w)]
  exact hrun

theorem State.paged_epilogued (s : State) (i : ImageSel) (v w : Word) :
    ((s.atPage (pages s i - 1)).paged ((List.range (pages s i)).flatMap (pageOps s i))
      (List.replicate (pages s i) pageCmds).flatten v).epilogued w = s.wrote i w := by
  simp only [State.epilogued, State.paged, State.wrote, State.atPage, State.withWord, State.configured, State.ran,
    writeImageOps, writeImageCmds, afterOps_append, effects_append, List.append_assoc]
  rfl

/-- WriteImage from its first step to its return. -/
theorem engineReaches_writeImage {s : State} {as : List Word} {c w : Word} {l rest : List (List Byte)} {f : Frame}
    {fs : List Frame} (hpc : s.pc = .at .writeImage 0) (hcallers : s.callers = f :: fs)
    (hlen : 0 < (imageOf s s.fsm.image).bitLen / 8) (hmax : 1 ≤ s.cfg.pollMax.toNat)
    (hanswers : writeAnswers s s.fsm.image as c w l) (hreplies : s.xport.replies = l ++ rest) :
    EngineReaches s.settled ((s.wrote s.fsm.image w).resume f fs).settled := by
  obtain ⟨rfl, hcount, hyes, hc⟩ := hanswers
  obtain ⟨a, as, rfl⟩ : ∃ a as', as = a :: as' :=
    List.exists_cons_of_length_pos (hcount ▸ pages_pos hlen)
  rw [List.length_cons] at hcount
  have hstart : s.settled = ((s.atPage 0).goto .writeImage 1).settled := State.settled_ctl hpc (c := .pageInit) rfl
  obtain ⟨v, hpages⟩ := engineReaches_pages (s := s.atPage 0) (as := as) (a := a) (rest := [leBytes c, leBytes w] ++ rest)
    rfl hmax (hreplies.trans (by simp)) hyes ((Nat.zero_add _).trans hcount)
  have hops : pageOps (s.atPage 0) = pageOps s := funext (PagesAlike.pageOps_eq ⟨rfl, rfl, rfl, rfl, rfl⟩)
  rw [hops, hcount, show (s.atPage 0).fsm.index = 0 from rfl, ← List.range_eq_range'] at hpages
  have hepilogue := engineReaches_callEpilogue (s := (s.atPage (pages s s.fsm.image - 1)).paged
    ((List.range (pages s s.fsm.image)).flatMap (pageOps s s.fsm.image))
    (List.replicate (pages s s.fsm.image) pageCmds).flatten v) (a := c) (w := w) (rest := rest) hcallers hmax
    ((afterOps_replies s.xport _).trans (by simp [hreplies, ← hcount])) hc
  rw [State.paged_epilogued] at hepilogue
  rw [hstart]
  exact hpages.trans hepilogue

/-- Settles O32: the pages one behind the other, and the epilogue's outcome returned. -/
theorem writeImageRun : Obligations.WriteImageRun := by
  intro s as c w l rest f fs hpc hcallers hlen hmax hanswers hreplies
  exact (engineReaches_writeImage hpc hcallers hlen hmax hanswers hreplies).reaches
    (imagesKept_settled fun a => by simp [State.resume, State.wrote])

end Sys2Proof.Machine
end

section
/-! PROOFS. The header checksum's text (R279): which texts parse, and to what. -/

namespace Sys2Proof.Machine

open Sys2Proof.Claims

/-! Digits. -/

theorem hexDigit_hexChar (d : Fin 16 × Bool) : hexDigit (hexChar d) = some d.1.val := by
  revert d
  decide

/-- Every character with a digit's value is a digit's character. -/
theorem exists_hexChar {c : Byte} {v : Nat} (h : hexDigit c = some v) : ∃ d, c = hexChar d ∧ d.1.val = v := by
  have hchar : ∀ {d : Fin 16 × Bool}, (hexChar d).toNat = c.toNat → c = hexChar d :=
    fun h => BitVec.eq_of_toNat_eq h.symm
  unfold hexDigit at h
  split_ifs at h with hdecimal hupper hlower
  · obtain rfl := Option.some.inj h
    have hlt : c.toNat - 0x30 < 10 := by omega
    exact ⟨(⟨c.toNat - 0x30, by omega⟩, true), hchar (by simp [hexChar, hlt]; omega), rfl⟩
  · obtain rfl := Option.some.inj h
    exact ⟨(⟨c.toNat - 0x41 + 10, by omega⟩, true), hchar (by simp [hexChar]; omega), rfl⟩
  · obtain rfl := Option.some.inj h
    exact ⟨(⟨c.toNat - 0x61 + 10, by omega⟩, false), hchar (by simp [hexChar]; omega), rfl⟩

/-- No digit's character is an `x` or an `X`. -/
theorem hexChar_ne_x (d : Fin 16 × Bool) : hexChar d ≠ 0x78 ∧ hexChar d ≠ 0x58 := by
  revert d
  decide

/-! Texts of digits. -/

/-- The number that digits write behind a number, most significant first. -/
def digitsValue (a : Nat) (ds : List (Fin 16 × Bool)) : Nat := ds.foldl (fun a d => 16 * a + d.1.val) a

theorem hexValue_digits : ∀ (ds : List (Fin 16 × Bool)) (a : Nat), hexValue a (ds.map hexChar) = some (digitsValue a ds)
  | [], _ => rfl
  | d :: ds, a => by
    rw [List.map_cons, hexValue, hexDigit_hexChar]
    exact hexValue_digits ds (16 * a + d.1.val)

theorem exists_digits : ∀ {t : Text} {a v : Nat}, hexValue a t = some v →
    ∃ ds, t = ds.map hexChar ∧ v = digitsValue a ds
  | [], _, _, h => ⟨[], rfl, (Option.some.inj h).symm⟩
  | c :: t, a, v, h => by
    rw [hexValue] at h
    split at h
    · rename_i hdigit
      obtain ⟨d, rfl, rfl⟩ := exists_hexChar hdigit
      obtain ⟨ds, rfl, hv⟩ := exists_digits h
      exact ⟨d :: ds, rfl, hv⟩
    · cases h

/-! The optional `0x` or `0X`. -/

/-- What may stand before the digits. -/
def hexLeads : List Text := [[], [0x30, 0x78], [0x30, 0x58]]

theorem dropHexPrefix_digits : ∀ ds : List (Fin 16 × Bool), dropHexPrefix (ds.map hexChar) = ds.map hexChar
  | [] | [_] => rfl
  | _ :: e :: _ => if_neg fun h => h.2.elim (hexChar_ne_x e).1 (hexChar_ne_x e).2

theorem dropHexPrefix_append {pre : Text} (hpre : pre ∈ hexLeads) (ds : List (Fin 16 × Bool)) :
    dropHexPrefix (pre ++ ds.map hexChar) = ds.map hexChar := by
  simp only [hexLeads, List.mem_cons, List.not_mem_nil, or_false] at hpre
  obtain rfl | rfl | rfl := hpre
  · exact dropHexPrefix_digits ds
  · rfl
  · rfl

/-- What is dropped is a `0x`, a `0X` or nothing. -/
theorem exists_hexLead (t : Text) : ∃ pre ∈ hexLeads, t = pre ++ dropHexPrefix t := by
  unfold dropHexPrefix
  split
  · rename_i a b rest
    split_ifs with h
    · obtain ⟨rfl, rfl | rfl⟩ := h
      · exact ⟨[0x30, 0x78], by simp [hexLeads], rfl⟩
      · exact ⟨[0x30, 0x58], by simp [hexLeads], rfl⟩
    · exact ⟨[], by simp [hexLeads], rfl⟩
  · exact ⟨[], by simp [hexLeads], rfl⟩

/-! Parsing. -/

theorem parseHex32_of_isHexText {h : Text} {v : Nat} (hv : isHexText h v) : parseHex32 h = some (BitVec.ofNat 32 v) := by
  obtain ⟨pre, hpre, ds, hpos, hle, rfl, rfl⟩ := hv
  have hlength : 1 ≤ (ds.map hexChar).length ∧ (ds.map hexChar).length ≤ 8 := by simpa using ⟨hpos, hle⟩
  rw [parseHex32, dropHexPrefix_append hpre, if_pos hlength, hexValue_digits]
  rfl

theorem exists_isHexText {h : Text} {w : Word} (hw : parseHex32 h = some w) : ∃ v, isHexText h v := by
  rw [parseHex32] at hw
  split_ifs at hw with hlength
  obtain ⟨v, hv, -⟩ := Option.map_eq_some_iff.mp hw
  obtain ⟨ds, hds, rfl⟩ := exists_digits hv
  obtain ⟨pre, hpre, htext⟩ := exists_hexLead h
  rw [hds, List.length_map] at hlength
  exact ⟨digitsValue 0 ds, pre, hpre, ds, hlength.1, hlength.2, hds ▸ htext, rfl⟩

/-- Settles O39: the digits' characters are exactly those with a digit's value, and no digit's is an `x`. -/
theorem parseHex : Obligations.ParseHex := by
  refine ⟨fun _ _ => parseHex32_of_isHexText, fun h hnone => ?_, by decide, by decide, by decide⟩
  rcases hparse : parseHex32 h with _ | w
  · rfl
  · obtain ⟨v, hv⟩ := exists_isHexText hparse
    exact absurd hv (hnone v)

end Sys2Proof.Machine
end

section
/-! PROOFS. ProgramFlash's two single reads: its precondition (R271), and the checksum check (R278, R280). -/

namespace Sys2Proof.Machine

open Sys2Proof.Claims

/-! The precondition (R271). -/

theorem programmable_iff (w : Word) :
    (flagSet w .valid || flagSet w .por) = true ↔ w &&& (0x00001000 ||| 0x00010000) ≠ 0 := by
  have hmasks : w &&& (0x00001000 ||| 0x00010000) = (w &&& Flag.valid.mask) ||| (w &&& Flag.por.mask) :=
    BitVec.and_or_distrib_left
  rw [hmasks, and_mask, and_mask]
  cases flagSet w .valid <;> cases flagSet w .por <;> decide

/-- Where the test passes the erase is next, its own status read first. -/
theorem State.settled_programmable {s : State} {w : Word} (hst : s.st = some w)
    (hyes : (flagSet w .valid || flagSet w .por) = true) : (s.goto .programFlash 6).settled =
      { s with pc := .at .eraseFlash 0, callers := ⟨.programFlash, 9, true⟩ :: s.callers,
               fsm := { s.fsm with acc := .ok } } := by
  have hword : statusOr (s.goto .programFlash 6).st = w := congrArg statusOr hst
  have hpass : (s.goto .programFlash 6).settled = (s.goto .programFlash 7).settled := by
    rw [State.settled_ctl rfl (c := .requireProgrammable) rfl, State.move]
    rcases (s.goto .programFlash 6).requireProgrammable_cases .programFlash 6 with ⟨_, hon⟩ | ⟨hno, _⟩
    · rw [hon]
      rfl
    · rw [hword] at hno
      cases hyes.symm.trans hno
  have haccInit : (s.goto .programFlash 7).settled =
      (({ s with fsm := { s.fsm with acc := .ok } } : State).goto .programFlash 8).settled :=
    State.settled_ctl rfl (c := .accInit) rfl
  rw [hpass, haccInit, State.settled_call (q := .programFlash) (n := 8) (q' := .eraseFlash) rfl]
  exact State.settled_of_rest (State.moved?_cmd (q := .eraseFlash) (n := 0) rfl rfl)

/-- Where it fails and there is no caller ProgramFlash ends Fatal. -/
theorem State.settled_notProgrammable {s : State} {w : Word} (hst : s.st = some w) (hcallers : s.callers = [])
    (hno : (flagSet w .valid || flagSet w .por) = false) : (s.goto .programFlash 6).settled =
      { s with pc := .idle, result := some (.fatal .notProgrammable w),
               log := s.log ++ [⟨.error, .notProgrammable, w⟩] } := by
  have hword : statusOr (s.goto .programFlash 6).st = w := congrArg statusOr hst
  have hunwind : ∀ o, unwind o s.callers = [] := fun o => by rw [hcallers]; rfl
  rw [State.settled_ctl rfl (c := .requireProgrammable) rfl, State.move]
  rcases (s.goto .programFlash 6).requireProgrammable_cases .programFlash 6 with ⟨hyes, _⟩ | ⟨_, hreturn⟩
  · rw [hword] at hyes
    cases hno.symm.trans hyes
  · rw [hreturn, hword, State.returnOutcome_finish (s := (s.goto .programFlash 6).logEntry _ _ _) (hunwind _),
      State.settled_of_rest (State.moved?_idle rfl), State.finish, ← hcallers]
    rfl

/-- Settles O35: the status read, then the test of its word. -/
theorem programmablePrecondition : Obligations.ProgrammablePrecondition := by
  rintro s u w hpc hcallers rfl rfl
  have hread := engineReaches_statusRead hpc ⟨rfl, rfl, rfl⟩
  refine ⟨fun hon => ?pass, fun hoff => ?fail⟩
  case pass =>
    rw [State.settled_programmable rfl ((programmable_iff s.answerWord).mpr hon)] at hread
    rw [← hcallers]
    exact hread.reaches fun a => ⟨rfl, rfl⟩
  case fail =>
    have hclear := Bool.eq_false_iff.mpr (mt (programmable_iff s.answerWord).mp (not_not_intro hoff))
    rw [State.settled_notProgrammable (s := s.statusReads 1 s.answerWord) rfl hcallers hclear] at hread
    exact hread.reaches fun a => ⟨rfl, rfl⟩

/-! The checksum check (R278, R280). -/

/-- The step of a user-code read's capture, which drains the queue. -/
theorem engineReaches_readUc {s : State} {q : Seq} {n : Nat} (hpc : s.pc = .at q n)
    (hm : microAt q n = some (.op .readUc)) : EngineReaches s (State.settled
      { s with xport := afterOps s.xport [.dr 32 readProbe .runTestIdle true], uc := some s.answerWord,
               pc := .at q (n + 1) }) := by
  refine EngineReaches.step_withPerformed (p := s.readUc.xport.performed) ?_
  rw [engineStep_wire hpc hm rfl, ← State.settled_withPerformed, State.advance, show s.readUc.pc = .at q n from hpc]
  rfl

/-- The user-code read done, UC its word. -/
def State.userCodeRead (s : State) (w : Word) : State :=
  { s.ran (readOps s.cfg.op .readUsercode) [.readUsercode] with uc := some w }

/-- The three steps of the check's user-code read (R175, R278). -/
theorem engineReaches_userCodeRead {s : State} (hpc : s.pc = .at .checksumCheck 0) :
    EngineReaches s ((s.userCodeRead s.answerWord).goto .checksumCheck 3).settled := by
  have hcommand := engineReaches_command hpc (c := .readUsercode) rfl
  rw [State.settled_of_rest (State.moved?_op (w := .readUc) rfl rfl nofun)] at hcommand
  exact hcommand.trans (engineReaches_readUc rfl rfl)

theorem checksumMatches_iff {s : State} {w : Word} : checksumMatches s.cfg s.bs w = true ↔ checksumMatch s w := by
  have hlow : w.setWidth 16 = w.extractLsb' 0 16 := by
    refine BitVec.eq_of_getLsbD_eq fun i hi => ?_
    simp [hi]
  simp only [checksumMatches, fallbackChecksum, checksumMatch, Bool.or_eq_true, beq_iff_eq, hlow, Option.bind_eq_some_iff]

/-- What the check leaves for its caller: the user code, the outcome bound, its entry of LOG. -/
def State.checksumChecked (s : State) (w : Word) (o : SeqOutcome) (l : List LogEntry) : State :=
  { s.userCodeRead w with log := s.log ++ l, fsm := { s.fsm with ret := o, latch := none } }

/-- The comparisons of the check and its return to a caller. -/
theorem State.settled_checksumEnd {s : State} {w : Word} {o : SeqOutcome} {l : List LogEntry} {f : Frame} {fs : List Frame}
    (huc : s.uc = some w) (hcallers : s.callers = f :: fs) (hanswer : checksumAnswer s w o l) :
    (s.goto .checksumCheck 3).settled =
      (({ s with log := s.log ++ l, fsm := { s.fsm with ret := o } } : State).resume f fs).settled := by
  have hword : (s.goto .checksumCheck 3).userCode = w := congrArg (Option.getD · 0) huc
  rw [State.settled_ctl rfl (c := .checksumEnd) rfl, State.move]
  rcases (s.goto .checksumCheck 3).checksumEnd_cases with ⟨hmatch, hreturn⟩ | ⟨hmatch, hreturn⟩
  · rw [hword] at hmatch
    obtain ⟨rfl, rfl⟩ := hanswer.1 (checksumMatches_iff.mp hmatch)
    rw [hreturn, hword, State.returnOutcome_of_not_fatal (s := (s.goto .checksumCheck 3).logEntry _ _ _) rfl hcallers]
    rfl
  · rw [hword] at hmatch
    obtain ⟨rfl, rfl⟩ := hanswer.2 fun hyes => Bool.eq_false_iff.mp hmatch (checksumMatches_iff.mpr hyes)
    rw [hreturn, hword, State.returnOutcome_of_not_fatal (s := (s.goto .checksumCheck 3).logEntry _ _ _) rfl hcallers]
    rfl

/-- The check from its first step to its return. -/
theorem engineReaches_checksumCheck {s : State} {w : Word} {o : SeqOutcome} {l : List LogEntry} {f : Frame}
    {fs : List Frame} (hpc : s.pc = .at .checksumCheck 0) (hcallers : s.callers = f :: fs) (hw : s.answerWord = w)
    (hanswer : checksumAnswer s w o l) : EngineReaches s ((s.checksumChecked w o l).resume f fs).settled := by
  have hread := engineReaches_userCodeRead hpc
  have hreturn : ((s.userCodeRead w).goto .checksumCheck 3).settled = ((s.checksumChecked w o l).resume f fs).settled :=
    State.settled_checksumEnd rfl hcallers hanswer
  rwa [hw, hreturn] at hread

/-- Settles O38: the user-code read, then its comparisons. -/
theorem checksumCheck : Obligations.ChecksumCheck := by
  intro s f fs w o l hpc hcallers hw hanswer
  exact (engineReaches_checksumCheck hpc hcallers hw hanswer).reaches (imagesKept_settled fun a => ⟨rfl, rfl⟩)

end Sys2Proof.Machine
end

section
/-! PROOFS. ProgramFlash behind its erase (R270, R272): the images, the warnings, the checksum check, RESULT. -/

namespace Sys2Proof.Machine

open Sys2Proof.Claims

/-! Entries of ProgramFlash (R270). -/

/-- The last return taken into the worst so far (R368). -/
def State.accumulated (s : State) : State := { s with fsm := { s.fsm with acc := worst s.fsm.acc s.fsm.ret } }

theorem worst_ok (o : SeqOutcome) : worst o .ok = o := if_neg (Nat.not_lt_zero _)

section

variable {s : State} {n : Nat}

theorem State.settled_accWorst (hm : microAt .programFlash n = some (.ctl .accWorst)) :
    (s.goto .programFlash n).settled = (s.accumulated.goto .programFlash (n + 1)).settled :=
  State.settled_ctl rfl hm

/-- The return of the worst outcome, with no caller left, ends the host operation (R369). -/
theorem State.settled_retAcc (hm : microAt .programFlash n = some (.ctl .retAcc)) (hcallers : s.callers = []) :
    (s.goto .programFlash n).settled = s.finish s.fsm.acc := by
  have hunwind : unwind s.fsm.acc s.callers = [] := by rw [hcallers]; rfl
  rw [State.settled_ctl rfl hm]
  exact (congrArg State.settled (State.returnOutcome_finish (s := s.goto .programFlash n) hunwind)).trans
    (State.settled_of_rest (State.moved?_idle rfl))

end

/-! The images (R262, R270). -/

theorem PagesAlike.writeAnswers_iff {s t : State} (h : PagesAlike s t) {i : ImageSel} {as : List Word} {c w : Word}
    {l : List (List Byte)} : writeAnswers t i as c w l ↔ writeAnswers s i as c w l := by
  rw [writeAnswers, writeAnswers, h.pages_eq]

theorem writeAnswers_length {s : State} {i : ImageSel} {as : List Word} {c w : Word} {l : List (List Byte)}
    (h : writeAnswers s i as c w l) : l.length = pages s i + 2 := by
  obtain ⟨rfl, hcount, -, -⟩ := h
  simp [hcount]

/-- What ProgramFlash's write of one image leaves: WriteImage's effects, its outcome taken into the worst so far. -/
def State.imageWritten (s : State) (i : ImageSel) (w : Word) : State :=
  { s.wrote i w with
      fsm := { s.fsm with acc := worst s.fsm.acc (writeResult w), ret := writeResult w, image := i, index := pages s i - 1,
                          latch := none } }

/-- One image: its selection, WriteImage, and its outcome taken into the worst so far. -/
theorem engineReaches_imageStage {s : State} {n : Nat} {i : ImageSel} {as : List Word} {c w : Word}
    {l rest : List (List Byte)} (hselect : microAt .programFlash n = some (.ctl (.selectImage i)))
    (hcall : microAt .programFlash (n + 1) = some (.ctl (.call .writeImage true)))
    (hacc : microAt .programFlash (n + 2) = some (.ctl .accWorst)) (hlen : 0 < (imageOf s i).bitLen / 8)
    (hmax : 1 ≤ s.cfg.pollMax.toNat) (hanswers : writeAnswers s i as c w l) (hreplies : s.xport.replies = l ++ rest) :
    EngineReaches (s.goto .programFlash n).settled ((s.imageWritten i w).goto .programFlash (n + 3)).settled := by
  obtain ⟨t, ht⟩ : ∃ t, t = ({ s with fsm := { s.fsm with image := i } } : State).callSeq .programFlash (n + 2) true
      .writeImage := ⟨_, rfl⟩
  have halike : PagesAlike s t := by
    rw [ht]
    exact ⟨rfl, rfl, rfl, rfl, rfl⟩
  have himage : t.fsm.image = i := by rw [ht]; rfl
  have hrun := engineReaches_writeImage (s := t) (as := as) (c := c) (w := w) (l := l) (rest := rest)
    (f := ⟨.programFlash, n + 2, true⟩) (fs := s.callers) (by rw [ht]; rfl) (by rw [ht]; rfl)
    (by rwa [himage, halike.imageOf_eq]) (by rwa [halike.cfg]) (by rwa [himage, halike.writeAnswers_iff])
    (by rw [ht]; exact hreplies)
  have hstart : (s.goto .programFlash n).settled = t.settled := by
    rw [ht, ← State.settled_call hcall, State.settled_ctl rfl hselect]
    rfl
  have hend : ((t.wrote i w).resume ⟨.programFlash, n + 2, true⟩ s.callers).settled =
      ((s.imageWritten i w).goto .programFlash (n + 3)).settled := by
    rw [State.wrote, halike.writeImageOps_eq, halike.writeImageCmds_eq, halike.pages_eq, ht]
    exact State.settled_accWorst
      (s := { s.wrote i w with
                fsm := { s.fsm with ret := writeResult w, image := i, index := pages s i - 1, latch := none } })
      hacc
  rw [hstart, ← hend]
  rwa [himage] at hrun

/-- What ProgramFlash's writes leave: the bitstream's, and the firmware image's where MCU_IMG_SEL is 1. -/
def State.imagesWritten (s : State) (w1 w2 : Word) : State :=
  { s with xport := afterOps s.xport (writeImageOps s .main ++ (if s.mcuImgSel then writeImageOps s .mcu else [])),
           device := s.device ++ effects (writeImageCmds s .main ++ (if s.mcuImgSel then writeImageCmds s .mcu else [])),
           st := some (if s.mcuImgSel then w2 else w1), pollCnt := 1, word := 63,
           page := BitVec.ofNat 32 (pages s (if s.mcuImgSel then .mcu else .main) - 1),
           log := s.log ++ advisoryLog (writeResult w1) ++ (if s.mcuImgSel then advisoryLog (writeResult w2) else []),
           fsm := { s.fsm with acc := worst (worst s.fsm.acc (writeResult w1)) (if s.mcuImgSel then writeResult w2 else .ok),
                               ret := writeResult (if s.mcuImgSel then w2 else w1),
                               image := if s.mcuImgSel then .mcu else .main,
                               index := pages s (if s.mcuImgSel then .mcu else .main) - 1, latch := none } }

theorem State.imagesWritten_main {s : State} (w1 w2 : Word) (hmcu : s.mcuImgSel = false) :
    s.imagesWritten w1 w2 = s.imageWritten .main w1 := by
  simp only [State.imagesWritten, State.imageWritten, State.wrote, hmcu, Bool.false_eq_true, if_false, List.append_nil,
    worst_ok]

theorem State.imagesWritten_mcu {s : State} (w1 w2 : Word) (hmcu : s.mcuImgSel = true) :
    s.imagesWritten w1 w2 = (s.imageWritten .main w1).imageWritten .mcu w2 := by
  have halike : PagesAlike s (s.imageWritten .main w1) :=
    ⟨afterOps_freq (keepsFreq_writeImageOps s .main) s.xport, rfl, rfl, rfl, rfl⟩
  rw [State.imageWritten, State.wrote, halike.writeImageOps_eq, halike.writeImageCmds_eq, halike.pages_eq]
  simp only [State.imagesWritten, State.imageWritten, State.wrote, hmcu, if_true, afterOps_append, effects_append,
    List.append_assoc]

/-- The writes of ProgramFlash, the firmware image's exactly with MCU_IMG_SEL 1. -/
theorem engineReaches_images {s : State} {as1 as2 : List Word} {c1 w1 c2 w2 : Word} {l1 l2 rest : List (List Byte)}
    (hmax : 1 ≤ s.cfg.pollMax.toNat) (hmain : 0 < s.bs.image.bitLen / 8)
    (hfirmware : s.mcuImgSel = true → 0 < s.mcu.bitLen / 8) (hanswers1 : writeAnswers s .main as1 c1 w1 l1)
    (hanswers2 : writeAnswers s .mcu as2 c2 w2 l2)
    (hreplies : s.xport.replies = l1 ++ ((if s.mcuImgSel then l2 else []) ++ rest)) :
    EngineReaches (s.goto .programFlash 10).settled ((s.imagesWritten w1 w2).goto .programFlash 17).settled := by
  have hfirst := engineReaches_imageStage (n := 10) (i := .main) rfl rfl rfl hmain hmax hanswers1 hreplies
  obtain ⟨t, ht⟩ : ∃ t, t = s.imageWritten .main w1 := ⟨_, rfl⟩
  have hbranch : (t.goto .programFlash 13).settled =
      (t.goto .programFlash (if !t.mcuImgSel then 17 else 14)).settled :=
    State.settled_ctl rfl (c := .branch .mcuNotSelected 17) rfl
  have hsel : t.mcuImgSel = s.mcuImgSel := by rw [ht]; rfl
  rw [← ht, hbranch, hsel] at hfirst
  cases hmcu : s.mcuImgSel with
  | false =>
    rw [hmcu] at hfirst
    rw [State.imagesWritten_main w1 w2 hmcu, ← ht]
    exact hfirst
  | true =>
    have halike : PagesAlike s t := by
      rw [ht]
      exact ⟨afterOps_freq (keepsFreq_writeImageOps s .main) s.xport, rfl, rfl, rfl, rfl⟩
    have hscript : t.xport.replies = l2 ++ rest := by
      rw [hmcu, if_pos rfl] at hreplies
      rw [ht]
      refine (afterOps_replies s.xport (writeImageOps s .main)).trans ?_
      rw [hreplies, countP_writeImageOps, ← writeAnswers_length hanswers1, List.drop_left]
    have hsecond := engineReaches_imageStage (s := t) (n := 14) (i := .mcu) rfl rfl rfl
      (by rw [halike.imageOf_eq]; exact hfirmware hmcu) (by rwa [halike.cfg]) (halike.writeAnswers_iff.mpr hanswers2) hscript
    rw [hmcu] at hfirst
    rw [State.imagesWritten_mcu w1 w2 hmcu, ← ht]
    exact hfirst.trans hsecond

theorem State.imagesWritten_replies {s : State} {as1 as2 : List Word} {c1 w1 c2 w2 : Word} {l1 l2 rest : List (List Byte)}
    (hanswers1 : writeAnswers s .main as1 c1 w1 l1) (hanswers2 : writeAnswers s .mcu as2 c2 w2 l2)
    (hreplies : s.xport.replies = l1 ++ ((if s.mcuImgSel then l2 else []) ++ rest)) :
    (s.imagesWritten w1 w2).xport.replies = rest := by
  refine (afterOps_replies s.xport _).trans ?_
  rw [hreplies, List.countP_append, countP_writeImageOps, ← writeAnswers_length hanswers1, ← List.drop_drop,
    List.drop_left]
  cases s.mcuImgSel with
  | false => rfl
  | true =>
    rw [if_pos rfl, if_pos rfl, countP_writeImageOps, ← writeAnswers_length hanswers2, List.drop_left]

/-! The warnings, the checksum check and the end (R272, R278, R369). -/

/-- The entries of LOG that the warning of R272 makes. -/
def verifyLog (s : State) : List LogEntry := if s.verifyReq then [⟨.warning, .verifyUnsupported, 0⟩] else []

/-- What ProgramFlash leaves behind its writes, the check having answered `uc` with `o` and `l`. -/
def State.flashDone (s : State) (uc : Word) (o : SeqOutcome) (l : List LogEntry) : State :=
  { s with xport := afterOps s.xport (if s.var.checksumKnown then readOps s.cfg.op .readUsercode else []),
           device := s.device ++ effects (if s.var.checksumKnown then [.readUsercode] else []),
           uc := if s.var.checksumKnown then some uc else s.uc,
           log := s.log ++ verifyLog s ++ (if s.var.checksumKnown then l else [⟨.warning, .checksumSkipped, 0⟩]),
           result := some (worst s.fsm.acc (if s.var.checksumKnown then o else .ok)), pc := .idle, callers := [],
           fsm := if s.var.checksumKnown then { s.fsm with acc := worst s.fsm.acc o, ret := o, latch := none } else s.fsm }

theorem State.settled_warnVerify (s : State) : (s.goto .programFlash 17).settled =
    (({ s with log := s.log ++ verifyLog s } : State).goto .programFlash 18).settled := by
  have hmove : (s.goto .programFlash 17).settled =
      ((if s.verifyReq then s.warn .verifyUnsupported else s).goto .programFlash 18).settled := by
    rw [State.settled_ctl rfl (c := .warnVerify) rfl, State.move, State.goto_verifyReq]
    split <;> rfl
  rw [hmove, verifyLog]
  split
  · rfl
  · rw [List.append_nil]

theorem State.settled_checksumBranch (s : State) : (s.goto .programFlash 18).settled =
    (s.goto .programFlash (if !s.var.checksumKnown then 22 else 19)).settled :=
  State.settled_ctl rfl (c := .branch .checksumUnknown 22) rfl

/-- With the algorithm unknown a warning stands for the check. -/
theorem State.settled_checksumSkipped {s : State} (hcallers : s.callers = []) (hknown : s.var.checksumKnown = false) :
    (s.goto .programFlash 18).settled =
      ({ s with log := s.log ++ [⟨.warning, .checksumSkipped, 0⟩] } : State).finish s.fsm.acc := by
  rw [s.settled_checksumBranch, hknown]
  exact (State.settled_ctl rfl (c := .warnChecksumSkipped) rfl).trans
    (State.settled_retAcc (s := s.warn .checksumSkipped) (n := 23) rfl hcallers)

/-- With the algorithm known the check runs, and its outcome is taken into the worst. -/
theorem engineReaches_checksumStage {s : State} {uc : Word} {o : SeqOutcome} {l : List LogEntry} (hcallers : s.callers = [])
    (hknown : s.var.checksumKnown = true) (huc : s.answerWord = uc) (hanswer : checksumAnswer s uc o l) :
    EngineReaches (s.goto .programFlash 18).settled
      ((s.checksumChecked uc o l).accumulated.finish (worst s.fsm.acc o)) := by
  have hcheck := engineReaches_checksumCheck (s := s.callSeq .programFlash 20 false .checksumCheck) rfl rfl huc hanswer
  have hcall : (s.goto .programFlash 19).settled = s.callSeq .programFlash 20 false .checksumCheck :=
    (State.settled_call rfl).trans (State.settled_of_rest (State.moved?_cmd (q := .checksumCheck) (n := 0) rfl rfl))
  have hend : ((s.checksumChecked uc o l).goto .programFlash 20).settled =
      (s.checksumChecked uc o l).accumulated.finish (worst s.fsm.acc o) :=
    (State.settled_accWorst rfl).trans (State.settled_retAcc (n := 21) rfl hcallers)
  rw [s.settled_checksumBranch, hknown, ← hend]
  exact hcall ▸ hcheck

theorem State.flashDone_unknown {s : State} (uc : Word) (o : SeqOutcome) (l : List LogEntry)
    (hknown : s.var.checksumKnown = false) : s.flashDone uc o l =
      ({ s with log := s.log ++ verifyLog s ++ [⟨.warning, .checksumSkipped, 0⟩] } : State).finish s.fsm.acc := by
  simp only [State.flashDone, hknown, Bool.false_eq_true, if_false, worst_ok, effects, List.filterMap_nil, List.append_nil]
  rfl

theorem State.flashDone_known {s : State} (uc : Word) (o : SeqOutcome) (l : List LogEntry)
    (hknown : s.var.checksumKnown = true) : s.flashDone uc o l =
      (({ s with log := s.log ++ verifyLog s } : State).checksumChecked uc o l).accumulated.finish
        (worst s.fsm.acc o) := by
  simp only [State.flashDone, hknown, if_true, State.checksumChecked, State.userCodeRead, State.ran, State.accumulated,
    State.finish]

/-- ProgramFlash behind its writes. -/
theorem engineReaches_flashDone {s : State} {uc : Word} {o : SeqOutcome} {l : List LogEntry} {rest : List (List Byte)}
    (hcallers : s.callers = []) (hanswer : checksumAnswer s uc o l)
    (hreplies : s.xport.replies = (if s.var.checksumKnown then [leBytes uc] else []) ++ rest) :
    EngineReaches (s.goto .programFlash 17).settled (s.flashDone uc o l) := by
  rw [State.settled_warnVerify]
  cases hknown : s.var.checksumKnown with
  | false =>
    rw [State.settled_checksumSkipped (s := { s with log := s.log ++ verifyLog s }) hcallers hknown,
      State.flashDone_unknown uc o l hknown]
    exact EngineReaches.refl _
  | true =>
    rw [hknown, if_pos rfl] at hreplies
    rw [State.flashDone_known uc o l hknown]
    exact engineReaches_checksumStage (s := { s with log := s.log ++ verifyLog s }) hcallers hknown
      (State.answerWord_leBytes hreplies) hanswer

/-- The writes and what stands behind them, field by field. -/
theorem State.imagesWritten_flashDone (s : State) (w1 w2 uc : Word) (o : SeqOutcome) (l : List LogEntry) :
    (s.imagesWritten w1 w2).flashDone uc o l =
      { s with
          xport := afterOps s.xport (writeImageOps s .main ++ (if s.mcuImgSel then writeImageOps s .mcu else [])
            ++ (if s.var.checksumKnown then readOps s.cfg.op .readUsercode else [])),
          device := s.device ++ effects (writeImageCmds s .main ++ (if s.mcuImgSel then writeImageCmds s .mcu else [])
            ++ (if s.var.checksumKnown then [.readUsercode] else [])),
          st := some (if s.mcuImgSel then w2 else w1), uc := if s.var.checksumKnown then some uc else s.uc,
          pollCnt := 1, word := 63, fsm := ((s.imagesWritten w1 w2).flashDone uc o l).fsm,
          page := BitVec.ofNat 32 (pages s (if s.mcuImgSel then .mcu else .main) - 1),
          log := s.log ++ advisoryLog (writeResult w1) ++ (if s.mcuImgSel then advisoryLog (writeResult w2) else [])
            ++ verifyLog s ++ (if s.var.checksumKnown then l else [⟨.warning, .checksumSkipped, 0⟩]),
          result := some (worst (worst (worst s.fsm.acc (writeResult w1)) (if s.mcuImgSel then writeResult w2 else .ok))
            (if s.var.checksumKnown then o else .ok)),
          pc := .idle, callers := [] } := by
  simp only [State.flashDone, State.imagesWritten, verifyLog, afterOps_append, effects_append, List.append_assoc]

theorem State.accumulated_alike (s : State) : PagesAlike s s.accumulated := ⟨rfl, rfl, rfl, rfl, rfl⟩

/-- Settles O37: the erase's outcome bound, the writes, and what stands behind them. -/
theorem programFlashEnd : Obligations.ProgramFlashEnd := by
  intro s as1 as2 c1 w1 c2 w2 uc l1 l2 rest oc lc hpc hcallers hmax hmain hfirmware hanswers1 hanswers2 hanswer hreplies
  rw [List.append_assoc, List.append_assoc] at hreplies
  have halike := s.accumulated_alike
  have hbound : s.settled = (s.accumulated.goto .programFlash 10).settled := by
    rw [← State.settled_accWorst rfl, State.goto_of_pc hpc]
  have himages := engineReaches_images (s := s.accumulated) hmax hmain hfirmware (halike.writeAnswers_iff.mpr hanswers1)
    (halike.writeAnswers_iff.mpr hanswers2) hreplies
  have hdone := engineReaches_flashDone (s := s.accumulated.imagesWritten w1 w2) (uc := uc) (rest := rest) hcallers hanswer
    (State.imagesWritten_replies (halike.writeAnswers_iff.mpr hanswers1) (halike.writeAnswers_iff.mpr hanswers2) hreplies)
  have hrun := himages.trans hdone
  rw [← hbound] at hrun
  refine ⟨((s.accumulated.imagesWritten w1 w2).flashDone uc oc lc).fsm, _, rfl, ?_⟩
  rw [State.imagesWritten_flashDone, halike.writeImageOps_eq, halike.writeImageOps_eq, halike.writeImageCmds_eq,
    halike.writeImageCmds_eq, halike.pages_eq] at hrun
  exact hrun.reaches fun a => by simp [State.accumulated]

end Sys2Proof.Machine
end

section
/-! PROOFS. ExternalFlash: its opening up to the algorithm with each family's exit (R290, R292), the silent algorithm (R299), and
what stands behind the algorithm's end (R297, R298, R372). -/

namespace Sys2Proof.Machine

open Sys2Proof.Claims

/-! The algorithm's step: silent it stays (R299), at its end it goes on (R296). -/

section

variable {s : State} {q : Seq} {n : Nat}

/-- The machine rests at the algorithm's step. -/
theorem State.settled_algorithm (hm : microAt q n = some .algorithm) : (s.goto q n).settled = s.goto q n :=
  State.settled_of_rest (by simp only [State.moved?, State.goto_pc, hm])

theorem engineStep_algorithm_silent (hpc : s.pc = .at q n) (hm : microAt q n = some .algorithm) (hext : s.extIn = []) :
    engineStep s = .next s := by
  have hfetch : s.fetch = .waiting := by simp only [State.fetch, hpc, hm, hext, fetchExt]
  simp only [engineStep, hfetch]

theorem engineStep_algorithm_finish {ok : Bool} {rest : List ExtInput} (hpc : s.pc = .at q n)
    (hm : microAt q n = some .algorithm) (hext : s.extIn = .finish ok :: rest) : engineStep s = .next
      (({ s with extIn := rest, fsm := { s.fsm with algoOk := ok } } : State).goto q (n + 1)).settled := by
  have hfetch : s.fetch = .algorithmEnd ok := by simp only [State.fetch, hpc, hm, hext, fetchExt]
  simp only [engineStep, hfetch, State.endAlgorithm, State.advance, State.popExt, hpc, hext, Pc.next, List.tail_cons,
    State.goto]

/-- A step of the machine while the algorithm is silent: of the transport alone, or none. -/
theorem step_algorithm_silent (hpc : s.pc = .at q n) (hm : microAt q n = some .algorithm) (hext : s.extIn = []) :
    ∃ p, step s = .next (s.withPerformed p) := by
  cases hturn : s.xport.moves with
  | true => exact ⟨s.xport.performed + 1, step_of_transport hturn⟩
  | false => exact ⟨s.xport.performed, (step_of_engine hturn).trans (engineStep_algorithm_silent hpc hm hext)⟩

end

/-- Settles O43, by induction on the number of steps. -/
theorem silentAlgorithmWaits : Obligations.SilentAlgorithmWaits := by
  intro s q n hpc hm hext k
  induction k generalizing s with
  | zero => exact ⟨s.xport.performed, rfl⟩
  | succ k ih =>
    obtain ⟨p, hstep⟩ := step_algorithm_silent hpc hm hext
    obtain ⟨p', hrun⟩ := ih (s.withPerformed p) hpc hext
    exact ⟨p', (runSteps_succ hstep k).trans hrun⟩

/-! Rules of the sequencer that ExternalFlash needs. -/

theorem issues_setFreq (s : State) (hz : Nat) : Issues s (.setFreq hz) (.freq hz) := ⟨nofun, s.xport.performed, rfl⟩

/-- What EraseSRAM leaves for its caller: the outcome bound, an Advisory logged. -/
def State.sramErased (s : State) (w : Word) : State :=
  { s.configured (eraseSramOps s.cfg.op) eraseSramCmds w with
      log := s.log ++ advisoryLog (eraseSramResult w), fsm := { s.fsm with ret := eraseSramResult w, latch := none } }

/-- What the reset pair leaves for its caller (R345). -/
def State.deviceReset (s : State) : State :=
  { s.ran (cmdOps s.cfg.op .reload ++ cmdOps s.cfg.op .noop) [.reload, .noop] with
      fsm := { s.fsm with ret := .ok, latch := none } }

section

variable {s : State} {q : Seq} {n : Nat}

theorem State.holds_goto (c : Cond) : (s.goto q n).holds c = s.holds c := by cases c <;> rfl

theorem State.settled_branch_taken {c : Cond} {k : Nat} (hm : microAt q n = some (.ctl (.branch c k)))
    (hc : s.holds c = true) : (s.goto q n).settled = (s.goto q k).settled := by
  rw [State.settled_ctl rfl hm, State.move, State.holds_goto, if_pos hc]
  rfl

theorem State.settled_branch_passed {c : Cond} {k : Nat} (hm : microAt q n = some (.ctl (.branch c k)))
    (hc : s.holds c = false) : (s.goto q n).settled = (s.goto q (n + 1)).settled := by
  rw [State.settled_ctl rfl hm, State.move, State.holds_goto, if_neg (Bool.eq_false_iff.mp hc)]
  rfl

/-- A call of EraseSRAM, each poll matched at its first read (R226). -/
theorem engineReaches_callEraseSram {pass : Bool} {a b c w : Word} {rest : List (List Byte)}
    (hcall : microAt q n = some (.ctl (.call .eraseSram pass))) (hmax : 1 ≤ s.cfg.pollMax.toNat)
    (hreplies : s.xport.replies = [leBytes a, leBytes b, leBytes c, leBytes w] ++ rest)
    (ha : a &&& 0x80 = 0x80) (hb : b &&& 0x20 = 0x20) (hc : c &&& 0x80 = 0) :
    EngineReaches (s.goto q n).settled ((s.sramErased w).goto q (n + 1)).settled := by
  have hrun := engineReaches_eraseSram (s := s.callSeq q (n + 1) pass .eraseSram) rfl hmax hreplies ha hb hc
  have hreturn := State.settled_retDone
    (s := (s.callSeq q (n + 1) pass .eraseSram).configured (eraseSramOps s.cfg.op) eraseSramCmds w)
    (q := .eraseSram) (n := 18) rfl rfl rfl (eraseSramResult_eq w)
  rw [State.settled_call hcall]
  exact hreturn ▸ hrun

/-- Two commands, one behind the other. -/
theorem engineReaches_commandPair {c c' : Cmd} (hc : microAt q n = some (.cmd c))
    (hc' : microAt q (n + 2) = some (.cmd c')) : EngineReaches (s.goto q n).settled
      ((s.ran (cmdOps s.cfg.op c ++ cmdOps s.cfg.op c') [c, c']).goto q (n + 4)).settled := by
  have hsecond := engineReaches_commandStretch (s := s.ran (cmdOps s.cfg.op c) [c]) hc'
  rw [State.ran_ran] at hsecond
  exact (engineReaches_commandStretch hc).trans hsecond

/-- A call of ResetDevice: the reload pair (R345). -/
theorem engineReaches_callResetDevice {pass : Bool} (hcall : microAt q n = some (.ctl (.call .resetDevice pass))) :
    EngineReaches (s.goto q n).settled (s.deviceReset.goto q (n + 1)).settled := by
  have hpair := engineReaches_commandPair (s := s.callSeq q (n + 1) pass .resetDevice) (q := .resetDevice) (n := 0)
    (c := .reload) (c' := .noop) rfl rfl
  have hbody := engineReaches_callOk hcall rfl rfl rfl hpair
  exact hbody

end

/-! The opening (R290). -/

/-- The operations of ExternalFlash's opening, up to its branch on the family, each poll matched at its first read. -/
def extOpeningOps (o : OpCodes) : List TOp :=
  [.freq 10000000] ++ enableOps o ++ eraseSramOps o ++ cmdOps o .xferDone ++ cmdOps o .noop

/-- The commands of the opening. -/
def extOpeningCmds : List Cmd := [.enable, .readStatus] ++ eraseSramCmds ++ [.xferDone, .noop]

/-- What ExternalFlash's erase leaves: its outcome bound and taken into the worst, an Advisory of it logged. -/
def State.eraseTaken (s : State) (w : Word) : State :=
  { s.sramErased w with fsm := { s.fsm with acc := eraseSramResult w, ret := eraseSramResult w, latch := none } }

/-- What the opening leaves. -/
def State.extOpened (s : State) (w : Word) : State :=
  { s.eraseTaken w with
      xport := afterOps s.xport (extOpeningOps s.cfg.op), device := s.device ++ effects extOpeningCmds }

theorem ok_worst (o : SeqOutcome) : worst .ok o = o := by cases o <;> rfl

/-- The frequency, then Enable (R290). -/
theorem engineReaches_extEnabled {s : State} {e : Word} {rest : List (List Byte)} (hpc : s.pc = .at .externalFlash 0)
    (hmax : 1 ≤ s.cfg.pollMax.toNat) (hreplies : s.xport.replies = leBytes e :: rest) (he : e &&& 0x80 = 0x80) :
    EngineReaches s ((s.configured ([.freq extFlashClockHz] ++ enableOps s.cfg.op) [.enable, .readStatus] e).goto
      .externalFlash 2).settled := by
  have hfreq := engineReaches_op (s := s) (q := .externalFlash) (n := 0) rfl (issues_setFreq _ extFlashClockHz)
  rw [State.goto_of_pc hpc, State.settled_of_rest (State.moved?_op (w := .setFreq extFlashClockHz) hpc rfl nofun)] at hfreq
  rw [← State.issues_configured]
  exact hfreq.trans (engineReaches_callEnable rfl hreplies he hmax)

/-- The erase, its outcome the first that is taken (R290, R368). -/
theorem engineReaches_eraseTaken {s : State} {a b c w : Word} {rest : List (List Byte)} (hmax : 1 ≤ s.cfg.pollMax.toNat)
    (hreplies : s.xport.replies = [leBytes a, leBytes b, leBytes c, leBytes w] ++ rest)
    (ha : a &&& 0x80 = 0x80) (hb : b &&& 0x20 = 0x20) (hc : c &&& 0x80 = 0) :
    EngineReaches (s.goto .externalFlash 2).settled ((s.eraseTaken w).goto .externalFlash 5).settled := by
  obtain ⟨t, ht⟩ : ∃ t, t = ({ s with fsm := { s.fsm with acc := .ok } } : State) := ⟨_, rfl⟩
  have haccInit : (s.goto .externalFlash 2).settled = (t.goto .externalFlash 3).settled := by
    rw [State.settled_ctl rfl (c := .accInit) rfl, ht]
    rfl
  have herase := engineReaches_callEraseSram (s := t) (q := .externalFlash) (n := 3) rfl (by rwa [ht]) (by rwa [ht]) ha hb hc
  have htaken : (t.sramErased w).accumulated = s.eraseTaken w := by
    simp only [ht, State.accumulated, State.sramErased, State.eraseTaken, State.configured, State.ran, ok_worst]
  have haccWorst : ((t.sramErased w).goto .externalFlash 4).settled = ((s.eraseTaken w).goto .externalFlash 5).settled := by
    rw [← htaken]
    exact State.settled_ctl rfl (c := .accWorst) rfl
  rwa [← haccInit, haccWorst] at herase

/-- The opening: the frequency and Enable, the erase, the transfer-done pair. -/
theorem engineReaches_extOpened {s : State} {e a b c w : Word} {rest : List (List Byte)}
    (hpc : s.pc = .at .externalFlash 0) (hmax : 1 ≤ s.cfg.pollMax.toNat)
    (hreplies : s.xport.replies = [leBytes e, leBytes a, leBytes b, leBytes c, leBytes w] ++ rest)
    (he : e &&& 0x80 = 0x80) (ha : a &&& 0x80 = 0x80) (hb : b &&& 0x20 = 0x20) (hc : c &&& 0x80 = 0) :
    EngineReaches s ((s.extOpened w).goto .externalFlash 9).settled := by
  obtain ⟨t, ht⟩ : ∃ t, t = s.configured ([.freq extFlashClockHz] ++ enableOps s.cfg.op) [.enable, .readStatus] e :=
    ⟨_, rfl⟩
  have hscript : t.xport.replies = [leBytes a, leBytes b, leBytes c, leBytes w] ++ rest := by
    rw [ht]
    exact congrArg List.tail hreplies
  have henabled := engineReaches_extEnabled hpc hmax hreplies he
  have herased := engineReaches_eraseTaken (s := t) (by rwa [ht]) hscript ha hb hc
  have hpair := engineReaches_commandPair (s := t.eraseTaken w) (q := .externalFlash) (n := 5) (c := .xferDone) (c' := .noop)
    rfl rfl
  have hopened : (t.eraseTaken w).ran (cmdOps t.cfg.op .xferDone ++ cmdOps t.cfg.op .noop) [.xferDone, .noop] =
      s.extOpened w := by
    simp only [ht, State.extOpened, extOpeningOps, extOpeningCmds, State.eraseTaken, State.sramErased, State.configured,
      State.ran, afterOps_append, effects_append, List.append_assoc, extFlashClockHz]
  rw [← ht] at henabled
  rw [← hopened]
  exact (henabled.trans herased).trans hpair

/-! The exits (R292). -/

/-- With FINAL_OPCODE the exit is one command. -/
theorem engineReaches_exitFinalOpcode {s : State} (hexit : s.var.extExit = .finalOpcode) :
    EngineReaches (s.goto .externalFlash 9).settled
      ((s.ran (cmdOps s.cfg.op .extFinal) [.extFinal]).goto .externalFlash 16) := by
  have hbranch : (s.goto .externalFlash 9).settled = (s.goto .externalFlash 10).settled :=
    State.settled_branch_passed (c := .exitDisableNoop) rfl (by rw [State.holds, hexit]; rfl)
  have hcommand := engineReaches_commandStretch (s := s) (q := .externalFlash) (n := 10) (c := .extFinal) rfl
  have hjump : ((s.ran (cmdOps s.cfg.op .extFinal) [.extFinal]).goto .externalFlash 12).settled =
      (s.ran (cmdOps s.cfg.op .extFinal) [.extFinal]).goto .externalFlash 16 :=
    (State.settled_ctl rfl (c := .jump 16) rfl).trans (State.settled_algorithm rfl)
  rw [hjump] at hcommand
  exact hbranch ▸ hcommand

/-- With DISABLE_NOOP it is Disable, its poll matched at its first read, and a NOOP. -/
theorem engineReaches_exitDisableNoop {s : State} {d : Word} {rest : List (List Byte)}
    (hexit : s.var.extExit = .disableNoop) (hreplies : s.xport.replies = leBytes d :: rest) (hd : d &&& 0x80 = 0)
    (hmax : 1 ≤ s.cfg.pollMax.toNat) : EngineReaches (s.goto .externalFlash 9).settled
      ((s.configured (disableOps s.cfg.op ++ cmdOps s.cfg.op .noop) [.disable, .noop, .readStatus, .noop] d).goto
        .externalFlash 16) := by
  have hbranch : (s.goto .externalFlash 9).settled = (s.goto .externalFlash 13).settled :=
    State.settled_branch_taken (c := .exitDisableNoop) rfl (by rw [State.holds, hexit]; rfl)
  have hdisable := engineReaches_callDisable (q := .externalFlash) (n := 13) rfl hreplies hd hmax
  have hnoop := hdisable.trans (engineReaches_configured_command (c := .noop) rfl)
  rw [State.settled_algorithm (q := .externalFlash) (n := 16) rfl] at hnoop
  exact hbranch ▸ hnoop

/-- The state at the algorithm's step, `ops` and `cs` the exit's, `d` the last status read and `r` the last return. -/
def State.atAlgorithm (s : State) (w d : Word) (r : SeqOutcome) (ops : List TOp) (cs : List Cmd) : State :=
  { s with
      xport := afterOps s.xport (extOpeningOps s.cfg.op ++ ops), device := s.device ++ effects (extOpeningCmds ++ cs),
      st := some d, pollCnt := 1, log := s.log ++ advisoryLog (eraseSramResult w), pc := .at .externalFlash 16,
      fsm := { s.fsm with acc := eraseSramResult w, ret := r, latch := none } }

theorem State.extOpened_ran (s : State) (w : Word) (ops : List TOp) (cs : List Cmd) :
    ((s.extOpened w).ran ops cs).goto .externalFlash 16 = s.atAlgorithm w w (eraseSramResult w) ops cs := by
  simp only [State.goto, State.ran, State.extOpened, State.eraseTaken, State.sramErased, State.configured,
    State.atAlgorithm, afterOps_append, effects_append, List.append_assoc]

theorem State.extOpened_configured (s : State) (w d : Word) (ops : List TOp) (cs : List Cmd) :
    ((s.extOpened w).configured ops cs d).goto .externalFlash 16 = s.atAlgorithm w d .ok ops cs := by
  simp only [State.goto, State.ran, State.extOpened, State.eraseTaken, State.sramErased, State.configured,
    State.atAlgorithm, afterOps_append, effects_append, List.append_assoc]

theorem State.imagesKept_atAlgorithm (s : State) (w d : Word) (r : SeqOutcome) (ops : List TOp) (cs : List Cmd) :
    imagesKept s (s.atAlgorithm w d r ops cs) := fun _ => ⟨rfl, rfl⟩

/-- Settles O40: the opening, and behind it the exit of the family. -/
theorem exitSequences : Obligations.ExitSequences := by
  rintro s u e a b c w rest ops cs hpc hcallers hmax he ha hb hc hops hcs rfl
  obtain rfl : ops = extOpeningOps s.cfg.op := hops
  obtain rfl : cs = extOpeningCmds := hcs
  refine ⟨fun hexit hreplies => ?finalOpcode, fun d hexit hd hreplies => ?disableNoop⟩
  case finalOpcode =>
    have hopened := engineReaches_extOpened hpc hmax hreplies he ha hb hc
    have hrun := hopened.trans (engineReaches_exitFinalOpcode (s := s.extOpened w) hexit)
    rw [State.extOpened_ran] at hrun
    exact hrun.reaches (s.imagesKept_atAlgorithm _ _ _ _ _)
  case disableNoop =>
    have hopened := engineReaches_extOpened (rest := leBytes d :: rest) hpc hmax hreplies he ha hb hc
    have hscript : (s.extOpened w).xport.replies = leBytes d :: rest :=
      (afterOps_replies s.xport (extOpeningOps s.cfg.op)).trans (congrArg (List.drop 5) hreplies)
    have hrun := hopened.trans (engineReaches_exitDisableNoop (s := s.extOpened w) hexit hscript hd hmax)
    rw [State.extOpened_configured] at hrun
    rw [List.append_assoc]
    exact hrun.reaches (s.imagesKept_atAlgorithm _ _ _ _ _)

/-! Behind the algorithm's end (R290, R297, R372). -/

/-- The entries of LOG that the algorithm's end makes. -/
def algoLog (ok : Bool) : List LogEntry := if ok then [] else [⟨.error, .extAlgoFailed, 0⟩]

/-- The outcome of ExternalFlash: the algorithm's failure first, then the Disable's behind it, then the erase's. -/
def State.extResult (s : State) : SeqOutcome :=
  if s.fsm.algoOk = false then .fatal .extAlgoFailed 0 else if s.fsm.post.isFatal then s.fsm.post else s.fsm.acc

/-- The return of ExternalFlash, with no caller left, ends the host operation. -/
theorem State.externalEnd_finish {s : State} (hcallers : s.callers = []) :
    s.externalEnd = ({ s with log := s.log ++ algoLog s.fsm.algoOk } : State).finish s.extResult := by
  have hunwind : ∀ o, unwind o s.callers = [] := fun o => by rw [hcallers]; rfl
  rcases s.externalEnd_cases with ⟨halgo, hend⟩ | ⟨halgo, hpost, hend⟩ | ⟨halgo, hpost, hend⟩
  · rw [hend, State.returnOutcome_finish (s := s.logEntry _ _ _) (hunwind _), State.extResult, halgo]
    rfl
  · rw [hend, State.returnOutcome_finish (hunwind _), State.extResult, halgo, hpost, algoLog, if_pos rfl, List.append_nil]
    rfl
  · rw [hend, State.returnOutcome_finish (hunwind _), State.extResult, halgo, hpost, algoLog, if_pos rfl, List.append_nil]
    rfl

/-- What ExternalFlash leaves when it has ended. -/
def State.extEnded (s : State) : State :=
  { s with
      xport := afterOps s.xport (cmdOps s.cfg.op .reload ++ cmdOps s.cfg.op .noop), device := s.device ++ [.reload],
      result := some s.extResult, log := s.log ++ algoLog s.fsm.algoOk, pc := .idle,
      fsm := { s.fsm with ret := .ok, latch := none } }

/-- The reload pair, and the return of ExternalFlash. -/
theorem engineReaches_extEnded {s : State} (hcallers : s.callers = []) :
    EngineReaches (s.goto .externalFlash 21).settled s.extEnded := by
  have hreset := engineReaches_callResetDevice (s := s) (q := .externalFlash) (n := 21) rfl
  have hresult : (s.deviceReset.goto .externalFlash 22).extResult = s.extResult := rfl
  have hend : (s.deviceReset.goto .externalFlash 22).settled = s.extEnded := by
    rw [State.settled_ctl rfl (c := .extReturn) rfl, State.move,
      State.externalEnd_finish (s := s.deviceReset.goto .externalFlash 22) hcallers,
      State.settled_of_rest (State.moved?_idle rfl), hresult]
    simp only [State.finish, State.goto, State.deviceReset, State.ran, State.extEnded, hcallers]
    rfl
  rwa [hend] at hreset

/-- The algorithm's end `ok` bound, no Disable behind it yet. -/
def State.algoEnded (s : State) (ok : Bool) (rest : List ExtInput) : State :=
  { s with extIn := rest, fsm := { s.fsm with algoOk := ok, post := .ok } }

/-- From the algorithm's end to the branch on the family. -/
theorem engineStep_algoEnded {s : State} {ok : Bool} {rest : List ExtInput} (hpc : s.pc = .at .externalFlash 16)
    (hext : s.extIn = .finish ok :: rest) :
    engineStep s = .next ((s.algoEnded ok rest).goto .externalFlash 18).settled := by
  rw [engineStep_algorithm_finish hpc rfl hext, State.settled_ctl rfl (c := .postInit) rfl]
  rfl

/-- With FINAL_OPCODE the reload pair is next. -/
theorem State.settled_branchFinalOpcode {s : State} (hexit : s.var.extExit = .finalOpcode) :
    (s.goto .externalFlash 18).settled = (s.goto .externalFlash 21).settled :=
  State.settled_branch_taken (c := .exitFinalOpcode) rfl (by rw [State.holds, hexit]; rfl)

/-- With DISABLE_NOOP the call of Disable is next, whose return is bound and not passed up. -/
theorem State.settled_branchDisableNoop {s : State} (hexit : s.var.extExit = .disableNoop) :
    (s.goto .externalFlash 18).settled = s.callSeq .externalFlash 20 false .disable := by
  have hbranch : (s.goto .externalFlash 18).settled = (s.goto .externalFlash 19).settled :=
    State.settled_branch_passed (c := .exitFinalOpcode) rfl (by rw [State.holds, hexit]; rfl)
  have hrest := State.moved?_cmd (s := s.callSeq .externalFlash 20 false .disable) (q := .disable) (n := 0) rfl rfl
  rw [hbranch, State.settled_call (q' := .disable) rfl, State.settled_of_rest hrest]

/-- The return of the Disable behind the algorithm bound. -/
def State.postBound (s : State) : State := { s with fsm := { s.fsm with post := s.fsm.ret } }

/-- Settles O41: the algorithm's end, the branch on the family, and the reload pair and return that both families share. -/
theorem resetRegardless : Obligations.ResetRegardless := by
  refine ⟨?finalOpcode, ?disableNoop, ?behindDisable⟩
  case finalOpcode =>
    intro s ok rest hpc hcallers hext hexit
    have hbranch : ((s.algoEnded ok rest).goto .externalFlash 18).settled = _ := State.settled_branchFinalOpcode hexit
    have hended := EngineReaches.step (engineStep_algoEnded hpc hext)
    have hrun := hended.trans (hbranch ▸ engineReaches_extEnded (s := s.algoEnded ok rest) hcallers)
    have hresult : (s.algoEnded ok rest).extResult = if ok then s.fsm.acc else .fatal .extAlgoFailed 0 := by
      cases ok <;> rfl
    rw [State.extEnded, hresult] at hrun
    exact hrun.reaches fun a => ⟨rfl, rfl⟩
  case disableNoop =>
    intro s ok rest hturn hpc hcallers hext hexit
    have hbranch : ((s.algoEnded ok rest).goto .externalFlash 18).settled = _ := State.settled_branchDisableNoop hexit
    rw [step_of_engine hturn, engineStep_algoEnded hpc hext, hbranch, ← hcallers]
    rfl
  case behindDisable =>
    intro s hpc hcallers
    have hpost : s.settled = (s.postBound.goto .externalFlash 21).settled := State.settled_ctl hpc (c := .postSet) rfl
    have hrun := engineReaches_extEnded (s := s.postBound) hcallers
    rw [← hpost] at hrun
    exact hrun.reaches fun a => by rw [State.settled_bs, State.settled_mcu]; exact ⟨rfl, rfl⟩

end Sys2Proof.Machine
end

section
/-! PROOFS. Serial bits: the bits of SPI bytes on the line, the bytes that samples put together, and the captures to come
behind a stream (20_memory.md R83, 46_spi_master.md R316, R319). -/

namespace Sys2Proof.Machine

open Sys2Proof.Claims

/-! The bits sent (R83). -/

/-- The bits of SPI bytes, by their position. -/
theorem spiBits_eq_map_serialBit : ∀ bs : List Byte, spiBits bs = (List.range (8 * bs.length)).map (serialBit bs)
  | [] => rfl
  | b :: bs => by
    have hfirst : (List.range 8).map (serialBit (b :: bs)) = (List.range 8).map fun j => b.getLsbD (7 - j) := rfl
    have hrest : serialBit (b :: bs) ∘ (8 + ·) = serialBit bs := by
      funext k
      have hdiv : (8 + k) / 8 = k / 8 + 1 := by omega
      have hmod : (8 + k) % 8 = k % 8 := by omega
      simp only [Function.comp_apply, serialBit, hdiv, hmod, List.getD_cons_succ]
    rw [List.length_cons, Nat.mul_succ, Nat.add_comm, List.range_add, List.map_append, List.map_map, hfirst, hrest,
      ← spiBits_eq_map_serialBit bs]
    rfl

theorem spiBits_length (bs : List Byte) : (spiBits bs).length = 8 * bs.length := by
  rw [spiBits_eq_map_serialBit, List.length_map, List.length_range]

/-! The bits received (R316, R319). -/

/-- `len` bytes of RXB with the first `m` of the samples `v` put in. -/
def packedBits (len : Nat) (v : Nat → Bool) : Nat → List Byte
  | 0 => List.replicate len 0
  | m + 1 => putSerialBit (packedBits len v m) m (v m)

@[simp] theorem packedBits_length (len : Nat) (v : Nat → Bool) : ∀ m : Nat, (packedBits len v m).length = len
  | 0 => List.length_replicate
  | m + 1 => (List.length_modify _ _ _).trans (packedBits_length len v m)

/-- A bit written reads back, the others stay. -/
theorem getLsbD_setBitOf (b : Byte) (p q : Fin 8) (v : Bool) :
    (setBitOf b p.val v).getLsbD q.val = if q = p then v else b.getLsbD q.val := by
  cases v with
  | true =>
    rw [setBitOf, if_pos rfl, BitVec.getLsbD_or, getLsbD_oneAt]
    by_cases h : q = p <;> simp [h]
  | false =>
    rw [setBitOf, if_neg Bool.false_ne_true, BitVec.getLsbD_and, BitVec.getLsbD_not, getLsbD_oneAt]
    by_cases h : q = p <;> simp [h]

/-- A bit of the line put into RXB reads back at its place, the others stay. -/
theorem serialBit_putSerialBit {bs : List Byte} {k : Nat} (hk : k < 8 * bs.length) (m : Nat) (v : Bool) :
    serialBit (putSerialBit bs m v) k = if k = m then v else serialBit bs k := by
  have hbyte : k / 8 < bs.length := by omega
  have hread := getLsbD_setBitOf bs[k / 8] ⟨7 - m % 8, by omega⟩ ⟨7 - k % 8, by omega⟩ v
  simp only [Fin.mk.injEq] at hread
  by_cases hdiv : m / 8 = k / 8
  · have hplace : 7 - k % 8 = 7 - m % 8 ↔ k = m := by omega
    simp [serialBit, putSerialBit, bitOf, List.getD_eq_getElem?_getD, hdiv, hbyte, hread, hplace]
  · have hne : k ≠ m := fun h => hdiv (h ▸ rfl)
    simp [serialBit, putSerialBit, List.getD_eq_getElem?_getD, hdiv, hne]

/-- The first `m` samples stand at their places on the line. -/
theorem serialBit_packedBits {len k : Nat} (hk : k < 8 * len) (v : Nat → Bool) : ∀ {m : Nat}, k < m →
    serialBit (packedBits len v m) k = v k
  | m + 1, hm => by
    rw [packedBits, serialBit_putSerialBit (by rwa [packedBits_length])]
    by_cases h : k = m
    · rw [if_pos h, h]
    · rw [if_neg h]
      exact serialBit_packedBits hk v (by omega)

/-- Bit `7 - j` of byte `i` is the sample of position `8 i + j`. -/
theorem getLsbD_packedBits {len i j : Nat} (hi : i < len) (hj : j < 8) (v : Nat → Bool) :
    ((packedBits len v (8 * len)).getD i 0).getLsbD (7 - j) = v (8 * i + j) := by
  have hbit := serialBit_packedBits (show 8 * i + j < 8 * len by omega) v (show 8 * i + j < 8 * len by omega)
  rwa [serialBit, show (8 * i + j) / 8 = i by omega, show (8 * i + j) % 8 = j by omega] at hbit

/-- Byte `i` is that of its own eight samples alone. -/
theorem getD_packedBits {len i : Nat} (hi : i < len) (v : Nat → Bool) :
    (packedBits len v (8 * len)).getD i 0 = (packedBits 1 (fun j => v (8 * i + j)) 8).getD 0 0 := by
  refine BitVec.eq_of_getLsbD_eq fun p hp => ?_
  have hplace : 7 - (7 - p) = p := by omega
  have hleft := getLsbD_packedBits hi (show 7 - p < 8 by omega) v
  have hright := getLsbD_packedBits (len := 1) Nat.one_pos (show 7 - p < 8 by omega) fun j => v (8 * i + j)
  rw [hplace] at hleft hright
  rw [hleft, hright, Nat.mul_zero, Nat.zero_add]

/-! The captures to come behind a stream (R120). -/

/-- A stream makes one capture for each of its reads. -/
theorem afterOps_draws (x : Transport) : ∀ ops : List TOp,
    (afterOps x ops).draws = x.draws + ops.countP TOp.readsBack
  | [] => rfl
  | op :: ops => by
    have hop : (afterOp x op).draws = x.draws + if op.readsBack then 1 else 0 := by
      cases op with
      | dr n out stop cap => cases cap <;> rfl
      | _ => rfl
    have hrest : (afterOps x (op :: ops)).draws = _ := afterOps_draws (afterOp x op) ops
    rw [hrest, hop, List.countP_cons]
    omega

/-- Behind a stream the captures to come are those behind its reads. -/
theorem answer_later_afterOps (x : Transport) (ops : List TOp) (k n : Nat) :
    (later (afterOps x ops) k).answer n = (later x (ops.countP TOp.readsBack + k)).answer n := by
  refine Transport.answer_congr ?replies ?draws n
  case replies => exact (congrArg (List.drop k) (afterOps_replies x ops)).trans List.drop_drop
  case draws => exact (congrArg (· + k) (afterOps_draws x ops)).trans (Nat.add_assoc _ _ _)

theorem capturedByte_afterOps (x : Transport) (ops : List TOp) (k : Nat) :
    capturedByte (afterOps x ops) k = capturedByte x (ops.countP TOp.readsBack + k) := by
  rw [capturedByte, answer_later_afterOps, capturedByte]

end Sys2Proof.Machine
end

section
/-! PROOFS. The transactions of the SPI master: Encoding A bit by bit (R316 to R319) and Encoding B in one shift (R322, R324),
each from its first step to its return. -/

namespace Sys2Proof.Machine

open Sys2Proof.Claims

/-! Encoding A: the stream and the samples (R316, R319). -/

/-- The boundary-scan shift of three levels (R106). -/
def scanOp (pm : PinMap) (cs sck di : Bool) (cap : Bool) : TOp := .dr 8 [bscanByte pm cs sck di] .runTestIdle cap

/-- The clock-low and the clock-high shift of bit `k` of the transaction in hand. -/
def bitOps (s : State) (k : Nat) : List TOp :=
  [scanOp s.var.pinmap false false (serialBit s.txb k) false,
   scanOp s.var.pinmap false true (serialBit s.txb k) s.fsm.spi.rd]

/-- The shifts of the transaction in hand, up to its first `m` bits. -/
def bitsOps (s : State) (m : Nat) : List TOp :=
  scanOp s.var.pinmap false false false false :: (List.range m).flatMap (bitOps s)

theorem bitsOps_succ (s : State) (m : Nat) : bitsOps s (m + 1) = bitsOps s m ++ bitOps s m := by
  simp [bitsOps, List.range_succ]

/-- The stream of a transaction is its bits' and the end byte. -/
theorem scanA_eq_bitsOps (s : State) : scanA s.var.pinmap s.fsm.spi.rd (spiBits s.txb) =
    bitsOps s (8 * s.txb.length) ++ [scanOp s.var.pinmap true false false false] := by
  rw [scanA, spiBits_eq_map_serialBit, List.flatMap_map]
  rfl

theorem scanA_length (pm : PinMap) (rd : Bool) (bits : List Bool) : (scanA pm rd bits).length = 2 + 2 * bits.length := by
  simp [scanA, List.length_flatMap]
  omega

/-- A transaction that reads makes one capture for each bit. -/
theorem countP_scanA (pm : PinMap) (bits : List Bool) : (scanA pm true bits).countP TOp.readsBack = bits.length := by
  simp [scanA, List.countP_flatMap, Function.comp_def, TOp.readsBack]

theorem countP_bitsOps {s : State} (hrd : s.fsm.spi.rd = true) (m : Nat) : (bitsOps s m).countP TOp.readsBack = m := by
  simp [bitsOps, bitOps, scanOp, hrd, List.countP_flatMap, Function.comp_def, TOp.readsBack]

/-- The data-out bit of the `k`-th clock-high capture from now on (R319). -/
def State.sample (s : State) (k : Nat) : Bool := (capturedByte s.xport k).getLsbD s.var.pinmap.dout.val

/-- RXB with the samples of the first `m` bits; none is taken by a transaction that does not read. -/
def State.sampled (s : State) (m : Nat) : List Byte :=
  if s.fsm.spi.rd then packedBits s.txb.length s.sample m else List.replicate s.txb.length 0

theorem State.sampled_zero (s : State) : s.sampled 0 = List.replicate s.txb.length 0 := ite_self _

theorem State.sampled_succ (s : State) (m : Nat) : s.sampled (m + 1) =
    if s.fsm.spi.rd then putSerialBit (s.sampled m) m (s.sample m) else s.sampled m := by
  unfold State.sampled
  split <;> rfl

/-! Encoding A: the run. -/

/-- The state in which the first `m` bits of the transaction in hand are shifted, and the loop's index and BIT show `j`. -/
def State.afterBits (s : State) (m j : Nat) : State :=
  { s with xport := afterOps s.xport (bitsOps s m), rxb := s.sampled m, bit := BitVec.ofNat 32 j,
           fsm := { s.fsm with index := j } }

theorem issues_bscanStart (s : State) : Issues s .bscanStart (scanOp s.var.pinmap false false false false) :=
  ⟨nofun, s.xport.performed, rfl⟩

theorem issues_bscanLow (s : State) : Issues s .bscanLow (scanOp s.var.pinmap false false s.dataIn false) :=
  ⟨nofun, s.xport.performed, rfl⟩

theorem issues_bscanEnd (s : State) : Issues s .bscanEnd (scanOp s.var.pinmap true false false false) :=
  ⟨nofun, s.xport.performed, rfl⟩

/-- What the clock-high shift leaves: its operation, and its sample when the transaction reads. -/
def State.clockedHigh (s : State) : State :=
  { s.issues [scanOp s.var.pinmap false true s.dataIn s.fsm.spi.rd] with
      rxb := if s.fsm.spi.rd then putSerialBit s.rxb s.fsm.index (s.sample 0) else s.rxb }

theorem State.clockHigh_eq (s : State) : ∃ p, s.clockHigh = s.clockedHigh.withPerformed p := by
  cases hrd : s.fsm.spi.rd with
  | true => exact ⟨s.clockHigh.xport.performed, by rw [State.clockHigh_read hrd, State.clockedHigh, hrd]; rfl⟩
  | false => exact ⟨s.xport.performed, by rw [State.clockHigh_write hrd, State.clockedHigh, hrd]; rfl⟩

/-- The clock-high shift's step (R316, R319). -/
theorem engineReaches_bscanHigh {s : State} {q : Seq} {n : Nat} (hm : microAt q n = some (.op .bscanHigh)) :
    EngineReaches (s.goto q n).settled (s.clockedHigh.goto q (n + 1)).settled := by
  obtain ⟨p, hp⟩ := (s.goto q n).clockHigh_eq
  rw [State.settled_of_rest (State.moved?_op rfl hm nofun)]
  refine EngineReaches.step_withPerformed (p := p) ?_
  rw [engineStep_wire rfl hm (congrArg Except.ok hp), State.advance_withPerformed]
  rfl

/-- What the two shifts of the bit in hand leave. -/
def State.bitShifted (s : State) : State :=
  (s.issues [scanOp s.var.pinmap false false s.dataIn false]).clockedHigh

/-- The sample is that of the clock-high shift, the one that is captured. -/
theorem State.bitShifted_eq (s : State) : s.bitShifted =
    { s.issues [scanOp s.var.pinmap false false s.dataIn false, scanOp s.var.pinmap false true s.dataIn s.fsm.spi.rd] with
        rxb := if s.fsm.spi.rd then putSerialBit s.rxb s.fsm.index (s.sample 0) else s.rxb } := rfl

/-- Behind the first `m` bits the next sample is that of bit `m`. -/
theorem State.afterBits_sample {s : State} (hrd : s.fsm.spi.rd = true) (m j : Nat) :
    (s.afterBits m j).sample 0 = s.sample m := by
  have hbyte := capturedByte_afterOps s.xport (bitsOps s m) 0
  rw [countP_bitsOps hrd] at hbyte
  exact congrArg (fun b : Byte => b.getLsbD s.var.pinmap.dout.val) hbyte

theorem State.afterBits_bitShifted (s : State) (m : Nat) : (s.afterBits m m).bitShifted = s.afterBits (m + 1) m := by
  have hrxb : (if s.fsm.spi.rd then putSerialBit (s.sampled m) m ((s.afterBits m m).sample 0) else s.sampled m) =
      s.sampled (m + 1) := by
    rw [State.sampled_succ]
    exact if_ctx_congr Iff.rfl (fun hrd => by rw [State.afterBits_sample hrd]) fun _ => rfl
  rw [State.bitShifted_eq, State.afterBits, State.afterBits, ← hrxb, bitsOps_succ, afterOps_append]
  rfl

/-- The two shifts of bit `m`. -/
theorem engineReaches_bit (s : State) (m : Nat) : EngineReaches ((s.afterBits m m).goto .transferA 3).settled
    ((s.afterBits (m + 1) m).goto .transferA 5).settled := by
  have hlow := engineReaches_op (s := s.afterBits m m) (q := .transferA) (n := 3) rfl (issues_bscanLow _)
  have hhigh := engineReaches_bscanHigh
    (s := (s.afterBits m m).issues [scanOp s.var.pinmap false false (s.afterBits m m).dataIn false])
    (q := .transferA) (n := 4) rfl
  rw [← State.afterBits_bitShifted]
  exact hlow.trans hhigh

/-- Behind a bit that is not the last the next one is in hand. -/
theorem State.settled_nextBit {s : State} {m j : Nat} (hj : j + 1 < 8 * s.txb.length) :
    ((s.afterBits m j).goto .transferA 5).settled = ((s.afterBits m (j + 1)).goto .transferA 3).settled := by
  rw [State.settled_ctl rfl (c := .bitNext 3) rfl, State.move, if_pos (by exact hj)]
  rfl

theorem State.settled_lastBit {s : State} {m j : Nat} (hj : ¬ j + 1 < 8 * s.txb.length) :
    ((s.afterBits m j).goto .transferA 5).settled = ((s.afterBits m j).goto .transferA 6).settled := by
  rw [State.settled_ctl rfl (c := .bitNext 3) rfl, State.move, if_neg (by exact hj)]
  rfl

/-- All bits of the transaction in hand. -/
theorem engineReaches_bits {s : State} (hpos : 0 < s.txb.length) :
    EngineReaches ((s.afterBits 0 0).goto .transferA 3).settled
      ((s.afterBits (8 * s.txb.length) (8 * s.txb.length - 1)).goto .transferA 6).settled := by
  obtain ⟨last, hlast⟩ : ∃ last, 8 * s.txb.length = last + 1 := ⟨8 * s.txb.length - 1, by omega⟩
  have hbefore : EngineReaches ((s.afterBits 0 0).goto .transferA 3).settled
      ((s.afterBits last last).goto .transferA 3).settled :=
    engineReaches_iterate (σ := fun j => ((s.afterBits j j).goto .transferA 3).settled) fun j hj => by
      have hbit := engineReaches_bit s j
      rwa [State.settled_nextBit (by omega)] at hbit
  have hbit := engineReaches_bit s last
  rw [State.settled_lastBit (by omega)] at hbit
  rw [hlast, Nat.add_sub_cancel]
  exact hbefore.trans hbit

/-- What a transaction by Encoding A leaves for its caller. -/
def State.scannedA (s : State) : State :=
  { s with xport := afterOps s.xport (scanA s.var.pinmap s.fsm.spi.rd (spiBits s.txb)),
           rxb := s.sampled (8 * s.txb.length), bit := BitVec.ofNat 32 (8 * s.txb.length - 1),
           fsm := { s.fsm with index := 8 * s.txb.length - 1, ret := .ok } }

/-- RXB cleared (R316). -/
def State.rxCleared (s : State) : State := { s with rxb := List.replicate s.txb.length 0 }

/-- The transaction starts at its first shift. -/
theorem State.settled_transferAStart (s : State) :
    (s.goto .transferA 0).settled = s.rxCleared.goto .transferA 1 := by
  rw [State.settled_ctl rfl (c := .rxClear) rfl]
  exact State.settled_of_rest rfl

/-- A transaction by Encoding A from its first step to its return. -/
theorem engineReaches_transferA {s : State} {f : Frame} {fs : List Frame} (hcallers : s.callers = f :: fs)
    (hpos : 0 < s.txb.length) :
    EngineReaches (s.goto .transferA 0).settled (s.scannedA.resume f fs).settled := by
  have hclear : (s.goto .transferA 0).settled = (s.rxCleared.goto .transferA 1).settled :=
    State.settled_ctl rfl (c := .rxClear) rfl
  have hselect := engineReaches_op (s := s.rxCleared) (q := .transferA) (n := 1) rfl (issues_bscanStart _)
  have hloop : ((s.rxCleared.issues [scanOp s.var.pinmap false false false false]).goto .transferA 2).settled =
      ((s.afterBits 0 0).goto .transferA 3).settled := by
    rw [State.settled_ctl rfl (c := .bitInit) rfl, State.afterBits, State.sampled_zero]
    rfl
  have hdeselect := engineReaches_op (s := s.afterBits (8 * s.txb.length) (8 * s.txb.length - 1)) (q := .transferA) (n := 6)
    rfl (issues_bscanEnd _)
  have hreturn := State.settled_retOk (s := (s.afterBits (8 * s.txb.length) (8 * s.txb.length - 1)).issues
    [scanOp s.var.pinmap true false false false]) (q := .transferA) (n := 7) rfl hcallers
  have hrun := (hselect.trans (hloop ▸ engineReaches_bits hpos)).trans (hreturn ▸ hdeselect)
  rw [hclear, State.scannedA, scanA_eq_bitsOps, afterOps_append]
  exact hrun

/-! Encoding B (R322). -/

/-- What the shift of a whole transaction leaves: its operation, and the payload when it reads. -/
def State.passed (s : State) : State :=
  { s.issues [.dr s.encBBits (encBOut s.cfg s.txb s.fsm.spi.rd) .runTestIdle s.fsm.spi.rd] with
      rxb := if s.fsm.spi.rd then (List.range (s.txb.length - 1)).map (payloadB (s.xport.answer s.encBBits)) else s.rxb }

theorem State.passthroughShift_eq (s : State) : ∃ p, s.passthroughShift = s.passed.withPerformed p := by
  cases hrd : s.fsm.spi.rd with
  | true =>
    refine ⟨s.passthroughShift.xport.performed, ?_⟩
    simp only [State.passthroughShift, State.passed, hrd, if_true]
    rfl
  | false =>
    refine ⟨s.xport.performed, ?_⟩
    simp only [State.passthroughShift, State.passed, hrd, Bool.false_eq_true, if_false]
    rfl

/-- The step of that shift. -/
theorem engineReaches_encBShift {s : State} {q : Seq} {n : Nat} (hm : microAt q n = some (.op .encBShift)) :
    EngineReaches (s.goto q n).settled (s.passed.goto q (n + 1)).settled := by
  obtain ⟨p, hp⟩ := (s.goto q n).passthroughShift_eq
  rw [State.settled_of_rest (State.moved?_op rfl hm nofun)]
  refine EngineReaches.step_withPerformed (p := p) ?_
  rw [engineStep_wire rfl hm (congrArg Except.ok hp), State.advance_withPerformed]
  rfl

theorem issues_encBState (s : State) : Issues s .encBState (.state s.cfg.encBState) := ⟨nofun, s.xport.performed, rfl⟩

/-- What a transaction by Encoding B leaves for its caller. -/
def State.scannedB (s : State) : State :=
  { s with xport := afterOps s.xport (scanB s s.fsm.spi.rd s.txb),
           rxb := if s.fsm.spi.rd then (List.range (s.txb.length - 1)).map (payloadB (s.xport.answer s.encBBits)) else s.rxb,
           device := s.device ++ [.connectSpiFlash], fsm := { s.fsm with ret := .ok, latch := none } }

/-- The state before the shift of the transaction in hand: the flash is connected, the intermediate TAP state entered. -/
def State.connected (s : State) : State :=
  (s.ran (cmdOps s.cfg.op .spiPassthrough) [.spiPassthrough]).issues [.state s.cfg.encBState]

theorem engineReaches_connected (s : State) :
    EngineReaches (s.goto .transferB 0).settled (s.connected.goto .transferB 3).settled := by
  have hcommand := engineReaches_commandStretch (s := s) (q := .transferB) (n := 0) (c := .spiPassthrough) rfl
  exact hcommand.trans (engineReaches_op (s := s.ran (cmdOps s.cfg.op .spiPassthrough) [.spiPassthrough]) rfl
    (issues_encBState _))

/-- The shift's operation is that of the stream (R107). -/
theorem encBOut_eq (s : State) (tx : List Byte) (rd : Bool) :
    encBOut s.cfg tx rd = tx.map revByte ++ List.replicate ((extraBits s rd + 7) / 8) 0 := rfl

theorem scanB_eq (s : State) : scanB s s.fsm.spi.rd s.txb = cmdOps s.cfg.op .spiPassthrough ++ [.state s.cfg.encBState] ++
    [.dr s.encBBits (encBOut s.cfg s.txb s.fsm.spi.rd) .runTestIdle s.fsm.spi.rd] := by
  rw [encBOut_eq, scanB, List.append_assoc, List.singleton_append, State.encBBits, State.spiBitCount, encBExtra, extraBits]

/-- Nothing is captured before the shift. -/
theorem State.connected_answer (s : State) (n : Nat) : s.connected.xport.answer n = s.xport.answer n :=
  Transport.answer_congr rfl rfl n

theorem State.connected_passed (s : State) :
    { s.connected.passed with fsm := { s.connected.passed.fsm with ret := .ok } } = s.scannedB := by
  have hbits : s.connected.encBBits = s.encBBits := rfl
  rw [State.scannedB, scanB_eq, afterOps_append, afterOps_append, State.passed, State.connected_answer, hbits]
  rfl

theorem State.connected_passed_callers (s : State) : s.connected.passed.callers = s.callers := by
  simp only [State.connected, State.passed, State.issues, State.ran]

/-- A transaction by Encoding B from its first step to its return. -/
theorem engineReaches_transferB {s : State} {f : Frame} {fs : List Frame} (hcallers : s.callers = f :: fs) :
    EngineReaches (s.goto .transferB 0).settled (s.scannedB.resume f fs).settled := by
  have hrun := (engineReaches_connected s).trans (engineReaches_encBShift (s := s.connected) rfl)
  have hreturn := State.settled_retOk (s := s.connected.passed) (q := .transferB) (n := 4) rfl
    (s.connected_passed_callers.trans hcallers)
  rw [hreturn, State.connected_passed] at hrun
  exact hrun

/-- A transaction that reads makes one capture. -/
theorem countP_scanB (s : State) (bs : List Byte) : (scanB s true bs).countP TOp.readsBack = 1 := rfl

/-- Bit `7 - p` of a reversed byte is bit `p` (R107). -/
theorem getLsbD_revByte (b : Byte) {p : Nat} (hp : p < 8) : (revByte b).getLsbD (7 - p) = b.getLsbD p := by
  simp only [revByte, BitVec.getLsbD_append, BitVec.getLsbD_extractLsb']
  interval_cases p <;> simp

/-- R324 for every bit of a payload byte. -/
theorem getLsbD_payloadB (cap : List Byte) (i : Nat) {j : Nat} (hj : j < 8) : (payloadB cap i).getLsbD (7 - j) =
    (cap.getD ((8 * (i + 1) + 1 + j) / 8) 0).getLsbD ((8 * (i + 1) + 1 + j) % 8) := by
  have hmask : ∀ p, p < 7 → (0x7F : Byte).getLsbD p = true := by decide
  have hhigh : ∀ b : Byte, (b >>> 7).getLsbD (7 - j) = (decide (j = 7) && b.getLsbD (7 - 0)) := fun b => by
    rw [BitVec.getLsbD_ushiftRight]
    by_cases hlast : j = 7
    · subst hlast
      rfl
    · rw [decide_eq_false hlast, Bool.false_and, BitVec.getLsbD_of_ge _ _ (by omega)]
  rw [payloadB, BitVec.getLsbD_or, hhigh, getLsbD_revByte _ (by decide), BitVec.getLsbD_shiftLeft]
  by_cases hlast : j = 7
  · subst hlast
    rw [show (8 * (i + 1) + 1 + 7) / 8 = i + 2 by omega, show (8 * (i + 1) + 1 + 7) % 8 = 0 by omega]
    simp
  · have hplace : 7 - j - 1 = 7 - (j + 1) := by omega
    rw [BitVec.getLsbD_and, hplace, getLsbD_revByte _ (by omega), hmask _ (by omega),
      show (8 * (i + 1) + 1 + j) / 8 = i + 1 by omega, show (8 * (i + 1) + 1 + j) % 8 = j + 1 by omega]
    have hbelow : 7 - j < 8 ∧ ¬ 7 - j < 1 := by omega
    simp [hlast, hbelow]

end Sys2Proof.Machine
end

section
/-! PROOFS. The request transfer: its start in the variant's encoding, its transaction and its reply (46_spi_master.md R311 to
R324). -/

namespace Sys2Proof.Machine

open Sys2Proof.Claims

/-! The start and the end of a request. -/

/-- A request of the external algorithm accepted: its bytes and operands loaded, the algorithm's step to return to, no value
returned yet. -/
def State.accepted (s : State) (tx : List Byte) (call : SpiCall) : State :=
  { s.loadSpi tx call with callers := ⟨.externalFlash, 16, false⟩ :: s.callers, spiReply := none }

theorem lengthsDisagree_of_agree {tx : Option (List Byte)} {rl : Option Word} (h : lengthsAgree tx rl) :
    lengthsDisagree tx rl = false := by
  cases tx with
  | none => rfl
  | some l =>
    cases rl with
    | none => rfl
    | some n => simp [lengthsDisagree, h l n rfl rfl]

theorem transmitBytes_eq (cmd : Byte) (tx : Option (List Byte)) (rl : Option Word) :
    transmitBytes cmd tx rl = cmd :: payload tx rl := by
  cases tx <;> cases rl <;> rfl

/-- A transfer whose lengths agree starts its transaction. -/
theorem exec_transfer {tx : Option (List Byte)} {rl : Option Word} (h : lengthsAgree tx rl) (cmd : Byte) (s : State) :
    exec (.transfer cmd tx rl) s =
      .next ((s.accepted (cmd :: payload tx rl) (transferCall cmd rl)).goto .spiTransfer 0).settled := by
  rcases execTransfer_cases cmd tx rl s with ⟨hdisagree, _⟩ | ⟨_, hstart⟩
  · cases hdisagree.symm.trans (lengthsDisagree_of_agree h)
  · rw [exec, hstart, transmitBytes_eq]
    rfl

/-- With a read length the payload has that many bytes. -/
theorem payload_length_of_read {tx : Option (List Byte)} {n : Word} (h : lengthsAgree tx (some n)) :
    (payload tx (some n)).length = n.toNat := by
  cases tx with
  | none => exact List.length_replicate
  | some l => exact (h l n rfl rfl).symm

section

variable {s : State} {q : Seq} {n : Nat}

/-- The call of Encoding A (R311). -/
theorem State.settled_callEncodingA (hm : microAt q n = some (.ctl .callEncoding)) (henc : s.var.spiEncoding = .encA) :
    (s.goto q n).settled = ((s.callSeq q (n + 1) true .transferA).goto .transferA 0).settled := by
  rw [State.settled_ctl rfl hm, State.move, State.goto_var, henc]
  rfl

/-- The call of Encoding B (R311). -/
theorem State.settled_callEncodingB (hm : microAt q n = some (.ctl .callEncoding)) (henc : s.var.spiEncoding = .encB) :
    (s.goto q n).settled = ((s.callSeq q (n + 1) true .transferB).goto .transferB 0).settled := by
  rw [State.settled_ctl rfl hm, State.move, State.goto_var, henc]
  rfl

/-- A transaction by Encoding A, called. -/
theorem engineReaches_callEncodingA (hm : microAt q n = some (.ctl .callEncoding)) (henc : s.var.spiEncoding = .encA)
    (hpos : 0 < s.txb.length) : EngineReaches (s.goto q n).settled (s.scannedA.goto q (n + 1)).settled := by
  rw [State.settled_callEncodingA hm henc]
  exact engineReaches_transferA (s := s.callSeq q (n + 1) true .transferA) rfl hpos

/-- A transaction by Encoding B, called. -/
theorem engineReaches_callEncodingB (hm : microAt q n = some (.ctl .callEncoding)) (henc : s.var.spiEncoding = .encB) :
    EngineReaches (s.goto q n).settled (s.scannedB.goto q (n + 1)).settled := by
  rw [State.settled_callEncodingB hm henc]
  exact engineReaches_transferB (s := s.callSeq q (n + 1) true .transferB) rfl

end

/-- The external algorithm runs on, Ok bound, `cs` the callers behind it. -/
def State.backAtAlgorithm (s : State) (cs : List Frame) : State :=
  ({ s with callers := cs, fsm := { s.fsm with ret := .ok } } : State).goto .externalFlash 16

/-- A request returns to the external algorithm (R296). -/
theorem State.settled_returnToAlgorithm {s : State} {cs : List Frame}
    (hcallers : s.callers = ⟨.externalFlash, 16, false⟩ :: cs) :
    (s.returnOutcome .ok).settled = s.backAtAlgorithm cs := by
  rw [State.returnOutcome_of_not_fatal rfl hcallers]
  exact State.settled_algorithm (s := { s with callers := cs, fsm := { s.fsm with ret := .ok } }) (q := .externalFlash)
    (n := 16) rfl

/-- A transfer's reply given (R312). -/
def State.replied (s : State) : State := { s with spiReply := some (.bytes s.replyBytes) }

theorem State.settled_replyBytes {s : State} {cs : List Frame}
    (hcallers : s.callers = ⟨.externalFlash, 16, false⟩ :: cs) :
    (s.goto .spiTransfer 1).settled = s.replied.backAtAlgorithm cs := by
  rw [State.settled_ctl rfl (c := .replyBytes) rfl]
  exact State.settled_returnToAlgorithm (s := s.replied.goto .spiTransfer 1) hcallers

/-! Encoding A (R316, R319). -/

/-- A transfer by Encoding A at its first shift. -/
def State.transferStartA (s : State) (tx : List Byte) (call : SpiCall) : State :=
  ((s.accepted tx call).callSeq .spiTransfer 1 true .transferA).rxCleared.goto .transferA 1

/-- A transfer by Encoding A when it has ended. -/
def State.transferEndA (s : State) (tx : List Byte) (call : SpiCall) : State :=
  (s.accepted tx call).scannedA.replied.backAtAlgorithm s.callers

section

variable {s : State} (henc : s.var.spiEncoding = .encA) (tx : List Byte) (call : SpiCall)
include henc

theorem State.settled_transferStartA :
    ((s.accepted tx call).goto .spiTransfer 0).settled = s.transferStartA tx call := by
  rw [State.settled_callEncodingA (s := s.accepted tx call) rfl henc, State.settled_transferAStart, State.transferStartA]

/-- The transfer from its first shift to its end. -/
theorem engineReaches_transferEndA (hpos : 0 < tx.length) :
    EngineReaches (s.transferStartA tx call) (s.transferEndA tx call) := by
  have hrun := engineReaches_callEncodingA (s := s.accepted tx call) (q := .spiTransfer) (n := 0) rfl henc hpos
  rwa [State.settled_transferStartA henc, State.settled_replyBytes (s := (s.accepted tx call).scannedA) rfl] at hrun

/-- The reply: RXB without the command's byte when the transaction reads, else none (R312). -/
theorem State.replyBytes_scannedA : (s.accepted tx call).scannedA.replyBytes =
    if call.rd then (packedBits tx.length s.sample (8 * tx.length)).drop 1 else [] := by
  have hreceived : (s.accepted tx call).scannedA.received = ((s.accepted tx call).sampled (8 * tx.length)).drop 1 := by
    rw [State.received, show (s.accepted tx call).scannedA.var = s.var from rfl, henc]
    rfl
  rw [State.replyBytes, hreceived, show (s.accepted tx call).scannedA.fsm.spi.rd = call.rd from rfl]
  cases hrd : call.rd with
  | true => exact congrArg (List.drop 1) (if_pos hrd)
  | false => rfl

end

/-- The first shift, field by field. -/
theorem State.transferStartA_eq (s : State) (tx : List Byte) (call : SpiCall) : s.transferStartA tx call =
    { s with txb := tx, rxb := List.replicate tx.length 0, spiReply := none, fsm := { s.fsm with spi := call },
             pc := .at .transferA 1,
             callers := ⟨.spiTransfer, 1, true⟩ :: ⟨.externalFlash, 16, false⟩ :: s.callers } := rfl

/-- The end, field by field. -/
theorem State.transferEndA_eq (s : State) (tx : List Byte) (call : SpiCall) : s.transferEndA tx call =
    { s with xport := afterOps s.xport (scanA s.var.pinmap call.rd (spiBits tx)), txb := tx,
             rxb := (s.accepted tx call).sampled (8 * tx.length), bit := BitVec.ofNat 32 (8 * tx.length - 1),
             spiReply := some (.bytes (s.accepted tx call).scannedA.replyBytes),
             fsm := { s.fsm with spi := call, index := 8 * tx.length - 1, ret := .ok }, pc := .at .externalFlash 16 } := by
  simp only [State.transferEndA, State.backAtAlgorithm, State.goto, State.replied, State.scannedA, State.accepted,
    State.loadSpi]

theorem State.transferEndA_callers (s : State) (tx : List Byte) (call : SpiCall) :
    (s.transferEndA tx call).callers = s.callers := by
  rw [State.transferEndA_eq]

theorem State.imagesKept_transferA (s : State) (tx : List Byte) (call : SpiCall) :
    imagesKept (s.transferStartA tx call) (s.transferEndA tx call) := by
  rw [State.transferStartA_eq, State.transferEndA_eq]
  exact fun _ => ⟨rfl, rfl⟩

/-- A transfer that reads makes one capture for each bit. -/
theorem State.transferEndA_draws {call : SpiCall} (hrd : call.rd = true) (s : State) (tx : List Byte) :
    (s.transferEndA tx call).xport.draws = s.xport.draws + 8 * tx.length := by
  rw [State.transferEndA_eq, hrd, afterOps_draws, countP_scanA, spiBits_length]

/-- Settles O17: the call, the bits and the reply, one behind the other. -/
theorem transferByEncodingA : Obligations.TransferByEncodingA := by
  intro s cmd tx rl henc hagree
  have hlength : (cmd :: payload tx rl).length = 1 + (payload tx rl).length := Nat.add_comm _ _
  have hexec := exec_transfer hagree cmd s
  have hrun := engineReaches_transferEndA henc (cmd :: payload tx rl) (transferCall cmd rl) (Nat.succ_pos _)
  have hreaches := hrun.reaches (State.imagesKept_transferA _ _ _)
  have hreply := State.replyBytes_scannedA henc (cmd :: payload tx rl) (transferCall cmd rl)
  rw [State.settled_transferStartA henc] at hexec
  rw [State.transferEndA_eq, hreply, hlength, show (transferCall cmd rl).rd = rl.isSome from rfl] at hreaches
  refine ⟨_, _, _, _, hexec, ?start, fun a => ⟨rfl, rfl⟩, ?count, ?reply, hreaches⟩
  case start => rw [State.transferStartA_eq, hlength]
  case count =>
    rw [scanA_length, spiBits_length, hlength]
    omega
  case reply => split <;> simp

/-- Settles O18: RXB holds the samples at their places, the command's byte first. -/
theorem readBackByEncodingA : Obligations.ReadBackByEncodingA := by
  intro s cmd tx n henc hagree
  have hlength : (cmd :: payload tx (some n)).length = 1 + n.toNat := by
    rw [List.length_cons, payload_length_of_read hagree, Nat.add_comm]
  have hexec := exec_transfer hagree cmd s
  have hrun := engineReaches_transferEndA henc (cmd :: payload tx (some n)) (transferCall cmd (some n)) (Nat.succ_pos _)
  have hreply := State.replyBytes_scannedA henc (cmd :: payload tx (some n)) (transferCall cmd (some n))
  have hdraws := State.transferEndA_draws (call := transferCall cmd (some n)) rfl s (cmd :: payload tx (some n))
  rw [State.settled_transferStartA henc] at hexec
  rw [if_pos (show (transferCall cmd (some n)).rd = true from rfl), hlength] at hreply
  rw [hlength] at hdraws
  refine ⟨_, _, _, hexec, hrun.reaches (State.imagesKept_transferA _ _ _), rfl, State.transferEndA_callers _ _ _,
    congrArg (fun r => some (SpiReply.bytes r)) hreply, ?length, hdraws, ?bits⟩
  case length =>
    rw [List.length_drop, packedBits_length]
    omega
  case bits =>
    intro i j hi hj
    rw [List.getD_eq_getElem?_getD, List.getElem?_drop, ← List.getD_eq_getElem?_getD,
      getLsbD_packedBits (by omega) hj, Nat.add_comm 1 i]
    rfl

/-! Encoding B (R322, R324). -/

/-- A transfer by Encoding B at its command. -/
def State.transferStartB (s : State) (tx : List Byte) (call : SpiCall) : State :=
  ((s.accepted tx call).callSeq .spiTransfer 1 true .transferB).goto .transferB 0

/-- A transfer by Encoding B when it has ended. -/
def State.transferEndB (s : State) (tx : List Byte) (call : SpiCall) : State :=
  (s.accepted tx call).scannedB.replied.backAtAlgorithm s.callers

/-- What a transfer by Encoding B receives (R322). -/
def State.receivedB (s : State) (tx : List Byte) (rd : Bool) : List Byte :=
  if rd then (List.range (tx.length - 1)).map (payloadB (s.xport.answer (8 * tx.length + extraBits s rd))) else []

theorem State.accepted_scannedB_rxb (s : State) (tx : List Byte) (call : SpiCall) :
    (s.accepted tx call).scannedB.rxb = s.receivedB tx call.rd := rfl

section

variable {s : State} (henc : s.var.spiEncoding = .encB) (tx : List Byte) (call : SpiCall)
include henc

theorem State.settled_transferStartB :
    ((s.accepted tx call).goto .spiTransfer 0).settled = s.transferStartB tx call := by
  rw [State.settled_callEncodingB (s := s.accepted tx call) rfl henc]
  exact State.settled_of_rest rfl

/-- The transfer from its command to its end. -/
theorem engineReaches_transferEndB : EngineReaches (s.transferStartB tx call) (s.transferEndB tx call) := by
  have hrun := engineReaches_callEncodingB (s := s.accepted tx call) (q := .spiTransfer) (n := 0) rfl henc
  rwa [State.settled_transferStartB henc, State.settled_replyBytes (s := (s.accepted tx call).scannedB) rfl] at hrun

/-- The reply is what was received. -/
theorem State.replyBytes_scannedB :
    (s.accepted tx call).scannedB.replyBytes = s.receivedB tx call.rd := by
  have hreceived : (s.accepted tx call).scannedB.received = s.receivedB tx call.rd := by
    rw [State.received, show (s.accepted tx call).scannedB.var = s.var from rfl, henc]
    exact s.accepted_scannedB_rxb tx call
  rw [State.replyBytes, hreceived, show (s.accepted tx call).scannedB.fsm.spi.rd = call.rd from rfl, State.receivedB]
  cases call.rd <;> rfl

end

/-- The first step, field by field. -/
theorem State.transferStartB_eq (s : State) (tx : List Byte) (call : SpiCall) : s.transferStartB tx call =
    { s with txb := tx, rxb := [], spiReply := none, fsm := { s.fsm with spi := call }, pc := .at .transferB 0,
             callers := ⟨.spiTransfer, 1, true⟩ :: ⟨.externalFlash, 16, false⟩ :: s.callers } := rfl

/-- The end, field by field. -/
theorem State.transferEndB_eq {s : State} (henc : s.var.spiEncoding = .encB) (tx : List Byte) (call : SpiCall) :
    s.transferEndB tx call =
      { s with xport := afterOps s.xport (scanB s call.rd tx), txb := tx, rxb := s.receivedB tx call.rd,
               spiReply := some (.bytes (s.receivedB tx call.rd)),
               fsm := { s.fsm with spi := call, ret := .ok, latch := none },
               device := s.device ++ [.connectSpiFlash], pc := .at .externalFlash 16 } := by
  have hops : scanB (s.accepted tx call) = scanB s := rfl
  rw [State.transferEndB, State.replied, State.replyBytes_scannedB henc, State.accepted_scannedB_rxb]
  simp only [State.backAtAlgorithm, State.goto, State.scannedB, hops]
  simp only [State.accepted, State.loadSpi]

/-- Settles O19: the call, the passthrough and the reply, one behind the other; R324 is the bits of a reassembled byte. -/
theorem transferByEncodingB : Obligations.TransferByEncodingB := by
  refine ⟨?run, fun cap i j => getLsbD_payloadB cap i⟩
  intro s cmd tx rl henc hagree
  have hlength : (cmd :: payload tx rl).length = 1 + (payload tx rl).length := Nat.add_comm _ _
  have hexec := exec_transfer hagree cmd s
  have hrun := engineReaches_transferEndB henc (cmd :: payload tx rl) (transferCall cmd rl)
  rw [State.settled_transferStartB henc] at hexec
  rw [State.transferEndB_eq henc, State.transferStartB_eq] at hrun
  have hreaches := hrun.reaches fun a => ⟨rfl, rfl⟩
  refine ⟨_, transferCall cmd rl, s.receivedB (cmd :: payload tx rl) rl.isSome, _, hexec, State.transferStartB_eq _ _ _,
    fun a => ⟨rfl, rfl⟩, rfl, ?received, hreaches⟩
  case received =>
    rw [State.receivedB, hlength, Nat.add_sub_cancel_left]

end Sys2Proof.Machine
end

section
/-! PROOFS. The request wait_until: its transactions up to the first that matches, or up to the bound, and its two returns
(46_spi_master.md R330, R332). -/

namespace Sys2Proof.Machine

open Sys2Proof.Claims

/-! What transactions leave (R311, R330). -/

theorem waitLog_zero (s : State) (verbose : Bool) : waitLog s verbose 0 = [] := ite_self _

theorem waitLog_succ (s : State) (verbose : Bool) (k : Nat) : waitLog s verbose (k + 1) =
    waitLog s verbose k ++ if verbose then [⟨.info, .spiWait, (polled s k).setWidth 32⟩] else [] := by
  cases verbose with
  | true => simp [waitLog, List.range_succ]
  | false => rfl

theorem waitDevice_encA {s : State} (henc : s.var.spiEncoding = .encA) (k : Nat) : waitDevice s k = [] := by
  rw [waitDevice, henc]

theorem waitDevice_encB {s : State} (henc : s.var.spiEncoding = .encB) (k : Nat) :
    waitDevice s k = List.replicate k .connectSpiFlash := by
  rw [waitDevice, henc]

theorem waitDevice_zero (s : State) : waitDevice s 0 = [] := by
  cases henc : s.var.spiEncoding with
  | encA => exact waitDevice_encA henc 0
  | encB => exact waitDevice_encB henc 0

theorem waitDevice_succ (s : State) (k : Nat) : waitDevice s (k + 1) = waitDevice s k ++ waitDevice s 1 := by
  cases henc : s.var.spiEncoding with
  | encA => simp only [waitDevice_encA henc, List.append_nil]
  | encB => simp only [waitDevice_encB henc, List.replicate_succ' (n := k), List.replicate_one]

theorem scan_encA {s : State} (henc : s.var.spiEncoding = .encA) (rd : Bool) (bs : List Byte) :
    scan s rd bs = scanA s.var.pinmap rd (spiBits bs) := by
  rw [scan, henc]

theorem scan_encB {s : State} (henc : s.var.spiEncoding = .encB) (rd : Bool) (bs : List Byte) :
    scan s rd bs = scanB s rd bs := by
  rw [scan, henc]

/-- By Encoding A the byte polled is that of the samples behind the command's (R319). -/
theorem polled_encA {s : State} (henc : s.var.spiEncoding = .encA) (j : Nat) :
    polled s j = (packedBits 1 (fun i => s.sample (16 * j + 8 + i)) 8).getD 0 0 := by
  rw [polled, henc]
  rfl

theorem polled_encB {s : State} (henc : s.var.spiEncoding = .encB) (j : Nat) :
    polled s j = payloadB ((later s.xport j).answer (16 + s.cfg.encBExtraBits)) 0 := by
  rw [polled, henc]

/-! One transaction. -/

/-- What a transaction that reads leaves for its caller in the variant's encoding. -/
def State.exchanged (s : State) (rx : List Byte) (bit : Word) (fsm : Fsm) : State :=
  { s with xport := afterOps s.xport (scan s true s.txb), rxb := rx, bit := bit,
           fsm := { fsm with spi := s.fsm.spi }, device := s.device ++ waitDevice s 1 }

theorem State.scannedA_eq_exchanged {s : State} (henc : s.var.spiEncoding = .encA) (hrd : s.fsm.spi.rd = true) :
    s.scannedA = s.exchanged s.scannedA.rxb s.scannedA.bit s.scannedA.fsm := by
  simp only [State.exchanged, scan_encA henc, waitDevice_encA henc, List.append_nil]
  rw [State.scannedA, hrd]

theorem State.scannedB_eq_exchanged {s : State} (henc : s.var.spiEncoding = .encB) (hrd : s.fsm.spi.rd = true) :
    s.scannedB = s.exchanged s.scannedB.rxb s.scannedB.bit s.scannedB.fsm := by
  simp only [State.exchanged, scan_encB henc, waitDevice_encB henc, List.replicate_one]
  rw [State.scannedB, hrd]

/-- The first payload byte of a transaction by Encoding A. -/
theorem State.scannedA_polledByte {s : State} {cmd : Byte} (henc : s.var.spiEncoding = .encA)
    (hrd : s.fsm.spi.rd = true) (htxb : s.txb = [cmd, 0]) : s.scannedA.polledByte = polled s 0 := by
  have hrxb : s.scannedA.rxb = packedBits 2 s.sample (8 * 2) := by
    rw [State.scannedA, State.sampled, if_pos hrd, htxb]
    rfl
  rw [State.polledByte, State.received, show s.scannedA.var = s.var from rfl, henc, polled_encA henc]
  simp only [hrxb, List.getD_eq_getElem?_getD, List.getElem?_drop]
  exact getD_packedBits (len := 2) (i := 1) (by decide) s.sample

/-- The first payload byte of a transaction by Encoding B. -/
theorem State.scannedB_polledByte {s : State} {cmd : Byte} (henc : s.var.spiEncoding = .encB)
    (hrd : s.fsm.spi.rd = true) (htxb : s.txb = [cmd, 0]) : s.scannedB.polledByte = polled s 0 := by
  have hbits : s.encBBits = 16 + s.cfg.encBExtraBits := by
    rw [State.encBBits, State.spiBitCount, htxb, hrd]
    rfl
  rw [State.polledByte, State.received, show s.scannedB.var = s.var from rfl, henc, polled_encB henc]
  simp only [State.scannedB, hrd, if_true, htxb, hbits]
  rfl

/-- A transaction of one command byte and one read byte, called: its operations, its device effect and the byte polled are those
of the statements. -/
theorem exists_exchange {s : State} {q : Seq} {n : Nat} {cmd : Byte} (hm : microAt q n = some (.ctl .callEncoding))
    (hrd : s.fsm.spi.rd = true) (htxb : s.txb = [cmd, 0]) : ∃ rx bit fsm,
      EngineReaches (s.goto q n).settled ((s.exchanged rx bit fsm).goto q (n + 1)).settled ∧
      (s.exchanged rx bit fsm).polledByte = polled s 0 := by
  cases henc : s.var.spiEncoding with
  | encA =>
    refine ⟨s.scannedA.rxb, s.scannedA.bit, s.scannedA.fsm, ?_⟩
    rw [← State.scannedA_eq_exchanged henc hrd]
    exact ⟨engineReaches_callEncodingA hm henc (by rw [htxb]; exact Nat.succ_pos _),
      State.scannedA_polledByte henc hrd htxb⟩
  | encB =>
    refine ⟨s.scannedB.rxb, s.scannedB.bit, s.scannedB.fsm, ?_⟩
    rw [← State.scannedB_eq_exchanged henc hrd]
    exact ⟨engineReaches_callEncodingB hm henc, State.scannedB_polledByte henc hrd htxb⟩

/-! Transactions one behind another. -/

/-- The operations of `k` transactions of a wait_until. -/
def pollOps (s : State) (cmd : Byte) (k : Nat) : List TOp := (List.replicate k (scan s true [cmd, 0])).flatten

theorem pollOps_succ (s : State) (cmd : Byte) (k : Nat) :
    pollOps s cmd (k + 1) = pollOps s cmd k ++ scan s true [cmd, 0] := by
  rw [pollOps, List.replicate_succ', List.flatten_append, List.flatten_singleton, pollOps]

theorem countP_pollOps (s : State) (cmd : Byte) (k : Nat) :
    (pollOps s cmd k).countP TOp.readsBack = k * (scan s true [cmd, 0]).countP TOp.readsBack := by
  rw [pollOps, List.countP_flatten, List.map_replicate, List.sum_replicate, smul_eq_mul]

/-- wait_until in progress: `k` transactions are made, `j` of them counted and logged. -/
def State.polls (s : State) (call : SpiCall) (k j : Nat) (rx : List Byte) (bit : Word) (fsm : Fsm) : State :=
  { s.accepted [call.cmd, 0] call with
      xport := afterOps s.xport (pollOps s call.cmd k), rxb := rx, bit := bit, fsm := { fsm with spi := call },
      pollCnt := BitVec.ofNat 32 j, log := s.log ++ waitLog s call.verbose j, device := s.device ++ waitDevice s k }

section

variable {s : State} {call : SpiCall} {k j : Nat} {rx : List Byte} {bit : Word} {fsm : Fsm}

/-- The byte polled next is that behind the transactions made. -/
theorem State.polled_polls : polled (s.polls call k j rx bit fsm) 0 = polled s k := by
  cases henc : s.var.spiEncoding with
  | encA =>
    have hcount : (pollOps s call.cmd k).countP TOp.readsBack = 16 * k := by
      rw [countP_pollOps, scan_encA henc, countP_scanA, spiBits_length, Nat.mul_comm]
      rfl
    have hsample : ∀ i, (s.polls call k j rx bit fsm).sample (16 * 0 + 8 + i) = s.sample (16 * k + 8 + i) := fun i => by
      have hbyte := capturedByte_afterOps s.xport (pollOps s call.cmd k) (16 * 0 + 8 + i)
      rw [hcount, Nat.mul_zero, Nat.zero_add, ← Nat.add_assoc] at hbyte
      exact congrArg (fun b : Byte => b.getLsbD s.var.pinmap.dout.val) hbyte
    rw [polled_encA henc, polled_encA (s := s.polls call k j rx bit fsm) henc]
    simp only [hsample]
  | encB =>
    have hcount : (pollOps s call.cmd k).countP TOp.readsBack = k := by
      rw [countP_pollOps, scan_encB henc, countP_scanB, Nat.mul_one]
    have hanswer := answer_later_afterOps s.xport (pollOps s call.cmd k) 0 (16 + s.cfg.encBExtraBits)
    rw [hcount] at hanswer
    rw [polled_encB henc, polled_encB (s := s.polls call k j rx bit fsm) henc]
    exact congrArg (payloadB · 0) hanswer

/-- One more transaction. -/
theorem State.polls_exchanged (rx' : List Byte) (bit' : Word) (fsm' : Fsm) :
    (s.polls call k j rx bit fsm).exchanged rx' bit' fsm' = s.polls call (k + 1) j rx' bit' fsm' := by
  have hscan : scan (s.polls call k j rx bit fsm) = scan s := rfl
  have hdevice : waitDevice (s.polls call k j rx bit fsm) = waitDevice s := rfl
  rw [State.exchanged, hscan, hdevice]
  simp only [State.polls, State.accepted, State.loadSpi, pollOps_succ, afterOps_append, waitDevice_succ s k,
    List.append_assoc]

/-- The test behind transaction number `k + 1`, which is not yet counted. -/
def State.atWaitTest (s : State) (call : SpiCall) (k : Nat) (rx : List Byte) (bit : Word) (fsm : Fsm) : State :=
  (s.polls call (k + 1) k rx bit fsm).goto .spiWait 3

/-- The transaction in hand is counted, and logged when verbose. -/
theorem State.countWait_atWaitTest (hbyte : (s.atWaitTest call k rx bit fsm).polledByte = polled s k) :
    (s.atWaitTest call k rx bit fsm).countWait = (s.polls call (k + 1) (k + 1) rx bit fsm).goto .spiWait 3 := by
  rw [State.countWait_eq, hbyte]
  simp only [State.atWaitTest, State.polls, State.goto, State.accepted, State.loadSpi, pollCnt_succ, waitLog_succ,
    List.append_assoc]
  rfl

/-- A wait_until starts with no transaction made. -/
theorem State.settled_waitStart : ((s.accepted [call.cmd, 0] call).goto .spiWait 0).settled =
    ((s.polls call 0 0 [] s.bit s.fsm).goto .spiWait 1).settled := by
  rw [State.settled_ctl rfl (c := .pollInit) rfl, State.polls, waitLog_zero, waitDevice_zero, List.append_nil,
    List.append_nil]
  rfl

theorem State.settled_loadPoll : ((s.polls call k j rx bit fsm).goto .spiWait 1).settled =
    ((s.polls call k j [] bit fsm).goto .spiWait 2).settled :=
  State.settled_ctl rfl (c := .loadPoll) rfl

/-- From the loop's first entry to its test. -/
theorem exists_poll (hrd : call.rd = true) : ∃ rx' bit' fsm',
    EngineReaches ((s.polls call k k rx bit fsm).goto .spiWait 1).settled
      (s.atWaitTest call k rx' bit' fsm').settled ∧
    (s.atWaitTest call k rx' bit' fsm').polledByte = polled s k := by
  obtain ⟨rx', bit', fsm', hrun, hbyte⟩ := exists_exchange (s := s.polls call k k [] bit fsm) (q := .spiWait) (n := 2)
    (cmd := call.cmd) rfl hrd rfl
  rw [State.polls_exchanged] at hrun hbyte
  rw [State.polled_polls] at hbyte
  rw [State.settled_loadPoll]
  exact ⟨rx', bit', fsm', hrun, hbyte⟩

end

/-! The test behind a transaction (R330, R332). -/

section

variable {s : State} {q : Seq} {n : Nat}

theorem State.waitNext_match (hyes : s.polledByte &&& s.fsm.spi.mask = s.fsm.spi.expected) :
    s.waitNext q n = ({ s.countWait with spiReply := some .success } : State).returnOutcome .ok :=
  if_pos hyes

theorem State.waitNext_again (hno : s.polledByte &&& s.fsm.spi.mask ≠ s.fsm.spi.expected)
    (hcount : s.countWait.pollCnt.toNat < s.fsm.spi.bound.toNat) : s.waitNext q n = s.countWait.goto q n :=
  (if_neg hno).trans (if_pos hcount)

theorem State.waitNext_timeout (hno : s.polledByte &&& s.fsm.spi.mask ≠ s.fsm.spi.expected)
    (hcount : ¬ s.countWait.pollCnt.toNat < s.fsm.spi.bound.toNat) : s.waitNext q n =
      (({ s.countWait with spiReply := some (.timeoutError s.polledByte) } : State).logEntry .error .spiTimeout
        (s.polledByte.setWidth 32)).returnOutcome .ok :=
  (if_neg hno).trans (if_neg hcount)

end

/-- wait_until ended with its reply, its entry of LOG made. -/
def State.waited (s : State) (reply : SpiReply) (l : List LogEntry) (cs : List Frame) : State :=
  ({ s with spiReply := some reply, log := s.log ++ l } : State).backAtAlgorithm cs

section

variable {s : State} {call : SpiCall} {k : Nat} {rx : List Byte} {bit : Word} {fsm : Fsm}
  (hbyte : (s.atWaitTest call k rx bit fsm).polledByte = polled s k)
include hbyte

/-- At a match the transaction is counted and success returned. -/
theorem State.settled_waitMatch (hyes : polled s k &&& call.mask = call.expected) :
    (s.atWaitTest call k rx bit fsm).settled =
      (s.polls call (k + 1) (k + 1) rx bit fsm).waited .success [] s.callers := by
  rw [← hbyte] at hyes
  rw [State.settled_ctl rfl (c := .waitNext 1) rfl, State.move, State.waitNext_match hyes, State.countWait_atWaitTest hbyte,
    State.settled_returnToAlgorithm rfl, State.waited, List.append_nil]
  rfl

/-- Without a match the next transaction is made, while the count is below the bound. -/
theorem State.settled_waitAgain (hno : polled s k &&& call.mask ≠ call.expected) (hcount : k + 1 < call.bound.toNat) :
    (s.atWaitTest call k rx bit fsm).settled =
      ((s.polls call (k + 1) (k + 1) rx bit fsm).goto .spiWait 1).settled := by
  have hbelow : (s.atWaitTest call k rx bit fsm).countWait.pollCnt.toNat < call.bound.toNat := by
    rw [State.countWait_atWaitTest hbyte]
    exact (pollCnt_toNat hcount.le).trans_lt hcount
  rw [← hbyte] at hno
  rw [State.settled_ctl rfl (c := .waitNext 1) rfl, State.move, State.waitNext_again hno hbelow,
    State.countWait_atWaitTest hbyte]
  rfl

/-- Without a match in as many transactions as the bound the timeout is logged and returned with the last byte. -/
theorem State.settled_waitTimeout (hno : polled s k &&& call.mask ≠ call.expected) (hcount : k + 1 = call.bound.toNat) :
    (s.atWaitTest call k rx bit fsm).settled =
      (s.polls call (k + 1) (k + 1) rx bit fsm).waited (.timeoutError (polled s k))
        [⟨.error, .spiTimeout, (polled s k).setWidth 32⟩] s.callers := by
  have hreached : ¬ (s.atWaitTest call k rx bit fsm).countWait.pollCnt.toNat < call.bound.toNat := by
    rw [State.countWait_atWaitTest hbyte, Nat.not_lt]
    exact hcount.ge.trans (pollCnt_toNat hcount.le).ge
  rw [← hbyte] at hno
  rw [State.settled_ctl rfl (c := .waitNext 1) rfl, State.move, State.waitNext_timeout hno hreached,
    State.countWait_atWaitTest hbyte, hbyte, State.settled_returnToAlgorithm rfl]
  rfl

end

/-! The run. -/

/-- As long as none before it matches, wait_until comes to the test behind its transaction number `k + 1`. -/
theorem exists_polls {s : State} {call : SpiCall} (hrd : call.rd = true) : ∀ {k : Nat}, k < call.bound.toNat →
    (∀ j < k, polled s j &&& call.mask ≠ call.expected) → ∃ rx bit fsm,
      EngineReaches ((s.accepted [call.cmd, 0] call).goto .spiWait 0).settled
        (s.atWaitTest call k rx bit fsm).settled ∧
      (s.atWaitTest call k rx bit fsm).polledByte = polled s k
  | 0, _, _ => by
    rw [State.settled_waitStart]
    exact exists_poll hrd
  | k + 1, hk, hno => by
    obtain ⟨rx, bit, fsm, hrun, hbyte⟩ := exists_polls hrd (Nat.lt_of_succ_lt hk) fun j hj => hno j (Nat.lt_succ_of_lt hj)
    rw [State.settled_waitAgain hbyte (hno k (Nat.lt_succ_self k)) hk] at hrun
    obtain ⟨rx', bit', fsm', hpoll, hbyte'⟩ := exists_poll (s := s) (k := k + 1) (rx := rx) (bit := bit) (fsm := fsm) hrd
    exact ⟨rx', bit', fsm', hrun.trans hpoll, hbyte'⟩

/-- The operands of a wait_until's transactions. -/
def waitCall (cmd mask expected : Byte) (bound : Word) (verbose : Bool) : SpiCall :=
  { cmd := cmd, mask := mask, expected := expected, bound := bound, verbose := verbose, rd := true }

theorem exec_waitUntil {bound : Word} (hbound : bound ≠ 0) (cmd mask expected : Byte) (verbose : Bool) (s : State) :
    exec (.waitUntil cmd mask expected bound verbose) s =
      .next ((s.accepted [cmd, 0] (waitCall cmd mask expected bound verbose)).goto .spiWait 0).settled := by
  rcases execWaitUntil_cases cmd mask expected bound verbose s with ⟨hzero, _⟩ | ⟨_, hstart⟩
  · exact absurd hzero hbound
  · exact hstart

/-- The end, field by field. -/
theorem State.waited_eq (s : State) (call : SpiCall) (k : Nat) (rx : List Byte) (bit : Word) (fsm : Fsm)
    (reply : SpiReply) (l : List LogEntry) : (s.polls call k k rx bit fsm).waited reply l s.callers =
      { s with xport := afterOps s.xport (pollOps s call.cmd k), txb := [call.cmd, 0], rxb := rx, bit := bit,
               fsm := { fsm with spi := call, ret := .ok }, pollCnt := BitVec.ofNat 32 k,
               log := s.log ++ waitLog s call.verbose k ++ l, device := s.device ++ waitDevice s k,
               spiReply := some reply, pc := .at .externalFlash 16 } := by
  simp only [State.waited, State.backAtAlgorithm, State.goto, State.polls, State.accepted, State.loadSpi]

theorem State.imagesKept_waited (s : State) (call : SpiCall) (k : Nat) (rx : List Byte) (bit : Word) (fsm : Fsm)
    (reply : SpiReply) (l : List LogEntry) : imagesKept ((s.accepted [call.cmd, 0] call).goto .spiWait 0).settled
      ((s.polls call k k rx bit fsm).waited reply l s.callers) := fun a => by
  rw [State.settled_bs, State.settled_mcu, State.waited_eq]
  exact ⟨rfl, rfl⟩

/-- Settles O21: the transactions up to the last one, and its test. -/
theorem waitUntil : Obligations.WaitUntil := by
  intro s cmd mask expected bound verbose K hbound hK hle hno hend
  obtain ⟨k, rfl⟩ : ∃ k, K = k + 1 := ⟨K - 1, (Nat.sub_add_cancel hK).symm⟩
  rw [Nat.add_sub_cancel] at hend ⊢
  obtain ⟨rx, bit, fsm, hrun, hbyte⟩ := exists_polls (s := s) (call := waitCall cmd mask expected bound verbose) rfl hle
    fun j hj => hno j (Nat.succ_lt_succ hj)
  have himages := s.imagesKept_waited (waitCall cmd mask expected bound verbose) (k + 1) rx bit fsm
  have hexec := exec_waitUntil hbound cmd mask expected verbose s
  by_cases hyes : polled s k &&& mask = expected
  · have hreaches := (State.settled_waitMatch hbyte hyes ▸ hrun).reaches (himages .success [])
    rw [State.waited_eq] at hreaches
    exact ⟨_, _, _, _, _, _, hexec, hreaches, fun _ => ⟨rfl, rfl⟩, absurd hyes⟩
  · have hcount : k + 1 = bound.toNat := hend.resolve_left hyes
    have hreaches := (State.settled_waitTimeout hbyte hyes hcount ▸ hrun).reaches (himages _ _)
    rw [State.waited_eq] at hreaches
    exact ⟨_, _, _, _, _, _, hexec, hreaches, fun h => absurd h hyes, fun _ => ⟨rfl, rfl⟩⟩

end Sys2Proof.Machine
end

section
/-! PROOFS. The host operation in progress: which sequences can stand above one in a legal chain of callers, and that every step
keeps the host operation's own sequence until it ends (R33, R341, R371). -/

namespace Sys2Proof.Machine

/-! What callers have in common. -/

/-- A call of a sequence with a property stands in a sequence with that property. -/
def Micro.callsWithin (P : Seq → Bool) (q : Seq) (n : Nat) : Micro → Bool
  | .ctl c => !c.calls || (c.targets q n).all fun e => !P e.1 || P q
  | _ => true

/-- A property that every caller of a sequence shares with it. -/
structure ClosedUpwards (P : Seq → Bool) : Prop where
  calls : ∀ q, romAll (fun n m => m.callsWithin P q n) q = true
  requests : ∀ q : Seq, q.isSpiLevel = true → P q = true → P .externalFlash = true

theorem ClosedUpwards.caller {P : Seq → Bool} (hP : ClosedUpwards P) {f : Frame} {q : Seq} (hf : f.callsSeq q = true)
    (hq : P q = true) : P f.seq = true := by
  rcases f.callsSeq_cases hf with ⟨_, n, c, hm, hc, ht⟩ | ⟨rfl, hspi⟩
  · have h := romAll_at (hP.calls f.seq) hm
    simp only [Micro.callsWithin, hc, Bool.not_true, Bool.false_or, List.all_eq_true] at h
    simpa [hq] using h _ ht
  · exact hP.requests q hspi hq

theorem ClosedUpwards.callers {P : Seq → Bool} (hP : ClosedUpwards P) : ∀ {fs : List Frame} {q : Seq},
    chainOk q fs = true → P q = true → ∀ f ∈ fs, P f.seq = true
  | g :: fs, q, h, hq, f, hf => by
    obtain ⟨hg, hfs⟩ := chainOk_cons.mp h
    have hPg := hP.caller hg hq
    rcases List.mem_cons.mp hf with rfl | hf
    · exact hPg
    · exact hP.callers hfs hPg f hf

/-- A caller resumes behind a call, or at the external algorithm's step. -/
theorem Frame.behindCall {f : Frame} {q : Seq} (h : f.callsSeq q = true) :
    (∃ n c, f.step = n + 1 ∧ microAt f.seq n = some (.ctl c) ∧ c.calls = true ∧ (q, 0) ∈ c.targets f.seq n) ∨
      f = ⟨.externalFlash, algorithmStep, false⟩ := by
  simp only [Frame.callsSeq, Bool.or_eq_true, Bool.and_eq_true, decide_eq_true_eq, beq_iff_eq] at h
  rcases h with ⟨⟨hpos, _⟩, hcall | ⟨⟨hcall, henc⟩, _⟩⟩ | ⟨rfl, _⟩
  · exact .inl ⟨f.step - 1, _, (Nat.sub_add_cancel hpos).symm, hcall, rfl, by simp [Ctl.targets]⟩
  · exact .inl ⟨f.step - 1, _, (Nat.sub_add_cancel hpos).symm, hcall, rfl,
      by simpa [Ctl.targets] using isEncoding_iff.mp henc⟩
  · exact .inr rfl

/-- A frame of a legal chain stands above a sequence that it calls. -/
theorem exists_callsSeq {f : Frame} : ∀ {fs : List Frame} {q : Seq}, chainOk q fs = true → f ∈ fs →
    ∃ q', f.callsSeq q' = true
  | g :: fs, q, h, hf => by
    obtain ⟨hg, hfs⟩ := chainOk_cons.mp h
    rcases List.mem_cons.mp hf with rfl | hf
    · exact ⟨q, hg⟩
    · exact exists_callsSeq hfs hf

/-! The sequence of the host operation. -/

/-- The outermost sequence of a chain of callers. -/
def rootOf (q : Seq) (fs : List Frame) : Seq := (fs.getLast?.map Frame.seq).getD q

@[simp] theorem rootOf_nil (q : Seq) : rootOf q [] = q := rfl

@[simp] theorem rootOf_cons (q : Seq) (f : Frame) (fs : List Frame) : rootOf q (f :: fs) = rootOf f.seq fs := by
  cases fs <;> simp [rootOf, List.getLast?_cons]

theorem rootOf_suffix {f : Frame} {fs : List Frame} : ∀ {gs : List Frame} {q : Seq}, f :: fs <:+ gs →
    rootOf f.seq fs = rootOf q gs
  | [], _, hs => absurd (List.suffix_nil.mp hs) (List.cons_ne_nil f fs)
  | g :: gs, q, hs => by
    rw [rootOf_cons]
    rcases List.suffix_cons_iff.mp hs with heq | hs
    · cases heq
      rfl
    · exact rootOf_suffix hs

theorem chainOk_root : ∀ {fs : List Frame} {q : Seq}, chainOk q fs = true → (rootOf q fs).isHostLevel = true
  | [], _, h => h
  | f :: fs, q, h => by
    rw [rootOf_cons]
    exact chainOk_root (chainOk_cons.mp h).2

theorem ClosedUpwards.root {P : Seq → Bool} (hP : ClosedUpwards P) : ∀ {fs : List Frame} {q : Seq},
    chainOk q fs = true → P q = true → P (rootOf q fs) = true
  | [], _, _, hq => hq
  | f :: fs, q, h, hq => by
    obtain ⟨hf, hfs⟩ := chainOk_cons.mp h
    rw [rootOf_cons]
    exact hP.root hfs (hP.caller hf hq)

theorem State.root_at {s : State} {q : Seq} {n : Nat} (hpc : s.pc = .at q n) : s.root = some (rootOf q s.callers) := by
  simp only [State.root, hpc, rootOf]

theorem State.root_idle {s : State} (hpc : s.pc = .idle) : s.root = none := by
  simp only [State.root, hpc]

theorem State.root_congr {s t : State} (hpc : t.pc = s.pc) (hcs : t.callers = s.callers) : t.root = s.root := by
  simp only [State.root, hpc, hcs]

/-! Moves and steps keep it (R34). -/

theorem State.moved?_root {s t : State} (hmv : s.moved? = some t) : t.root = s.root ∨ t.root = none := by
  obtain ⟨q, n, hpc, ⟨c, _, rfl⟩ | ⟨d, _, _, rfl⟩⟩ := s.moved?_cases hmv
  · rw [State.root_at hpc]
    rcases s.move_to q n c with ⟨k, _, _, hp, hcs⟩ | ⟨q', pass, _, _, hp, hcs, _⟩ | ⟨f, fs, _, hf, hp, hcs⟩ | ⟨_, hp, _⟩
    · exact .inl (by rw [State.root_at hp, hcs])
    · exact .inl (by rw [State.root_at hp, hcs, rootOf_cons])
    · exact .inl (by rw [State.root_at hp, hcs, rootOf_suffix hf])
    · exact .inr (State.root_idle hp)
  · exact .inl (by rw [State.root_at hpc, State.root_at (s.goto_pc q (n + 1)), State.goto_callers])

theorem State.settled_root (s : State) : s.settled.root = s.root ∨ s.settled.root = none := by
  refine State.settled_induct (fun t => t.root = s.root ∨ t.root = none) ?_ (.inl rfl)
  intro a t ha hmv
  rcases State.moved?_root hmv with h | h
  · exact ha.imp h.trans h.trans
  · exact .inr h

/-- Setting the step pointer leaves the host operation, or starts one from IDLE. -/
theorem Enters.root {s u : State} (he : Enters s u) : u.root = s.root ∨ s.pc = .idle := by
  cases he with
  | stays hpc hcs => exact .inl (State.root_congr hpc hcs)
  | host _ _ hidle => exact .inr hidle
  | spi q _ halg hpc hcs => exact .inl (by rw [State.root_at hpc, State.root_at halg, hcs, rootOf_cons])
  | passes q n _ hs _ _ hpc hcs => exact .inl (by rw [State.root_at hpc, State.root_at hs, hcs])

/-- A step keeps the host operation in progress, or ends it. -/
theorem step_root {s t : State} (hc : s.controlOk = true) (hrun : s.pc ≠ .idle) (h : step s = .next t) :
    t.root = s.root ∨ t.root = none := by
  rcases step_comesToRest hc h with rfl | ⟨u, rfl, hu⟩
  · exact .inl rfl
  · rw [← hu.root.resolve_right hrun]
    exact u.settled_root

end Sys2Proof.Machine
end

section
/-! PROOFS. The run invariant: what the setup checks established holds through the operation, the index of the stream stays
one of its chunks, PAGE shows the page in hand, and no step faults (R70, R234, R250, R262, R342, R344). -/

namespace Sys2Proof.Machine

open Sys2Proof.Claims

/-! The entries of the hardwired program that the invariant turns on (R33). -/

/-- The step of a chunk's shift stands at one place, which two entries of its own loop alone lead to. -/
def Micro.chunkPlaced (q : Seq) (n : Nat) : Micro → Bool
  | .op .chunkShift => q == .loadSram && n == 6
  | .ctl c => (c.targets q n).all fun e => e != (.loadSram, 6) || c == .chunkInit || c == .chunkNext 6
  | _ => !(q == .loadSram && n == 5)

theorem rom_chunkPlaced (q : Seq) : romAll (fun n m => m.chunkPlaced q n) q = true := by
  cases q with
  | single b => rfl
  | _ => decide

theorem eq_of_chunkShift {q : Seq} {n : Nat} (hm : microAt q n = some (.op .chunkShift)) : q = .loadSram ∧ n = 6 := by
  simpa only [Micro.chunkPlaced, Bool.and_eq_true, beq_iff_eq] using romAll_at (rom_chunkPlaced q) hm

theorem eq_of_leads_to_chunk {q : Seq} {n : Nat} {c : Ctl} (hm : microAt q n = some (.ctl c))
    (hk : (.loadSram, 6) ∈ c.targets q n) : c = .chunkInit ∨ c = .chunkNext 6 := by
  have h := romAll_at (rom_chunkPlaced q) hm
  simp only [Micro.chunkPlaced, List.all_eq_true] at h
  simpa using h _ hk

/-- The loops that count by the index, beside WriteImage's (R234, R254, R316). -/
def Ctl.countsOther : Ctl → Bool
  | .chunkInit | .chunkNext _ | .burstInit | .burstNext _ | .bitInit | .bitNext _ => true
  | _ => false

/-- The sequences that can run within WriteImage, itself among them (R262). -/
def Seq.withinWriteImage : Seq → Bool
  | .writeImage | .writePage | .imageEpilogue | .enable | .disable => true
  | _ => false

/-- The other loops by the index stand outside of WriteImage and what it calls; WriteImage starts with its own loop, to whose
start nothing leads back. -/
def Micro.indexPlaced (q : Seq) (n : Nat) : Micro → Bool
  | .ctl c => (!c.countsOther || !q.withinWriteImage) && ((q, n) != (.writeImage, 0) || c == .pageInit)
  | _ => (q, n) != (.writeImage, 0)

theorem rom_indexPlaced (q : Seq) : romAll (fun n m => m.indexPlaced q n) q = true := by
  cases q with
  | single b => rfl
  | _ => decide

theorem outside_writeImage {q : Seq} {n : Nat} {c : Ctl} (hm : microAt q n = some (.ctl c)) (hc : c.countsOther = true) :
    q.withinWriteImage = false := by
  have h := romAll_at (rom_indexPlaced q) hm
  simp only [Micro.indexPlaced, hc, Bool.not_true, Bool.false_or, Bool.and_eq_true, Bool.not_eq_true'] at h
  exact h.1

/-- Only the start of its loop stands before the loop of WriteImage. -/
theorem eq_pageInit {m : Micro} (hm : microAt .writeImage 0 = some m) : m = .ctl .pageInit := by
  cases hm
  rfl

/-- What is called from outside of WriteImage is outside of it. -/
theorem closedUpwards_outside : ClosedUpwards fun q => !q.withinWriteImage where
  calls q := by
    cases q with
    | single b => rfl
    | _ => decide
  requests _ _ _ := rfl

/-- The sequences of the volatile path's own (R340). -/
def Seq.isVolatile (q : Seq) : Bool := q == .loadSram || q == .programVolatile

theorem closedUpwards_isVolatile : ClosedUpwards Seq.isVolatile where
  calls q := by
    cases q with
    | single b => rfl
    | _ => decide
  requests q hq h := by
    cases q with
    | spiTransfer | spiWait => cases h
    | _ => cases hq

/-! The parts of the invariant. -/

/-- The step pointer or a caller stands in the loop of WriteImage. -/
def State.inPages (s : State) : Prop :=
  (∃ q n, s.pc = .at q n ∧ inPageLoop q n = true) ∨ ∃ f ∈ s.callers, inPageLoop f.seq f.step = true

theorem inPageLoop_iff {q : Seq} {n : Nat} : inPageLoop q n = true ↔ q = .writeImage ∧ 1 ≤ n := by
  simp [inPageLoop]

theorem State.pageOk_iff {s : State} : s.pageOk = true ↔ (s.inPages → s.page = BitVec.ofNat 32 s.fsm.index) := by
  have himp : ∀ {a : Bool} {p : Prop} [Decidable p], (!a || decide p) = true ↔ (a = true → p) := by
    intro a p _
    cases a <;> simp
  rcases hpc : s.pc with _ | ⟨q, n⟩
  · simpa [State.pageOk, State.inPages, hpc] using himp (a := s.callers.any fun f => inPageLoop f.seq f.step)
  · simpa [State.pageOk, State.inPages, hpc] using
      himp (a := inPageLoop q n || s.callers.any fun f => inPageLoop f.seq f.step)

theorem State.chunkOk_iff {s : State} : s.chunkOk = true ↔ (s.pc = .at .loadSram 6 →
    s.fsm.index < chunkCount s.cfg s.bs.image ∧ s.chunk = BitVec.ofNat 32 s.fsm.index) := by
  unfold State.chunkOk
  split
  · rename_i h
    simp [h]
  · rename_i h
    simp [h]

/-- The run invariant with its parts named. -/
structure RunOk (s : State) : Prop where
  control : s.controlOk = true
  params : s.cfg.wf = true
  setup : s.programming = true → s.setupOk = true
  chunk : s.pc = .at .loadSram 6 → s.fsm.index < chunkCount s.cfg s.bs.image ∧ s.chunk = BitVec.ofNat 32 s.fsm.index
  page : s.inPages → s.page = BitVec.ofNat 32 s.fsm.index
  attempt : s.attempt.toNat ≤ eraseAttempts

theorem State.runOk_iff {s : State} : s.runOk = true ↔ RunOk s := by
  have himp : ∀ a b : Bool, (!a || b) = true ↔ (a = true → b = true) := by decide
  simp only [State.runOk, Bool.and_eq_true, himp, State.chunkOk_iff, State.pageOk_iff, decide_eq_true_eq]
  exact ⟨fun ⟨⟨⟨⟨⟨h1, h2⟩, h3⟩, h4⟩, h5⟩, h6⟩ => ⟨h1, h2, h3, h4, h5, h6⟩,
    fun ⟨h1, h2, h3, h4, h5, h6⟩ => ⟨⟨⟨⟨⟨h1, h2⟩, h3⟩, h4⟩, h5⟩, h6⟩⟩

theorem State.programming_iff {s : State} : s.programming = true ↔
    s.root = some .programVolatile ∨ s.root = some .programFlash ∨ s.root = some .externalFlash := by
  simp [State.programming, or_assoc]

theorem State.programming_idle {s : State} (h : s.root = none) : s.programming = false := by
  simp [State.programming, h]

theorem State.programming_congr {s t : State} (h : t.root = s.root) : t.programming = s.programming := by
  simp only [State.programming, h]

/-- With the setup checks passed and chunks of at least one byte the stream has a chunk (R71, R234). -/
theorem chunkCount_pos {s : State} (hwf : s.cfg.wf = true) (hsetup : s.setupOk = true) :
    0 < chunkCount s.cfg s.bs.image := by
  have hchunk : 0 < s.cfg.chunkBytes := by
    simp only [Params.wf, Bool.and_eq_true, decide_eq_true_eq] at hwf
    tauto
  have hlen : 0 < s.bs.image.bitLen / 8 := by
    simp only [State.setupOk, Image.ok, Bool.and_eq_true, decide_eq_true_eq, beq_iff_eq] at hsetup
    omega
  exact chunks_pos hlen hchunk

/-! Moves (R33). -/

/-- The counters of the invariant are as before. -/
structure SameCounters (s t : State) : Prop where
  index : t.fsm.index = s.fsm.index
  page : t.page = s.page
  chunk : t.chunk = s.chunk
  attempt : t.attempt = s.attempt

theorem SameCounters.trans {s t u : State} (h : SameCounters s t) (h' : SameCounters t u) : SameCounters s u :=
  ⟨h'.index.trans h.index, h'.page.trans h.page, h'.chunk.trans h.chunk, h'.attempt.trans h.attempt⟩

theorem SameCounters.ofReturn {s u : State} (o : SeqOutcome) (h : SameCounters s u := by exact ⟨rfl, rfl, rfl, rfl⟩) :
    SameCounters s (u.returnOutcome o) := by
  rcases u.returnOutcome_cases o with ⟨_, e⟩ | ⟨_, _, _, e⟩ <;> rw [e] <;> exact ⟨h.index, h.page, h.chunk, h.attempt⟩

theorem State.countWait_sameCounters (s : State) : SameCounters s s.countWait := by
  rw [State.countWait_eq]
  exact ⟨rfl, rfl, rfl, rfl⟩

/-- The moves that count in a loop of the invariant. -/
def Ctl.counts : Ctl → Bool
  | .pageInit | .pageNext _ | .attemptInit | .attemptNext _ => true
  | c => c.countsOther

/-- The other moves leave the counters. -/
theorem State.move_sameCounters (s : State) (q : Seq) (n : Nat) {c : Ctl} (hc : c.counts = false) :
    SameCounters s (s.move q n c) := by
  have same : ∀ {u : State}, u.fsm.index = s.fsm.index → u.page = s.page → u.chunk = s.chunk →
      u.attempt = s.attempt → SameCounters s u := fun h1 h2 h3 h4 => ⟨h1, h2, h3, h4⟩
  cases c with
  | callEncoding =>
    simp only [State.move]
    split <;> exact same rfl rfl rfl rfl
  | retOk | retAcc | retRet | replyBytes => exact .ofReturn _
  | retDone want code =>
    rcases s.returnByDone_cases want code with ⟨_, e⟩ | ⟨_, e⟩ <;> rw [State.move, e] <;>
      exact .ofReturn _
  | pollNext mask value code k =>
    rcases s.pollNext_cases q n mask value code k with ⟨_, e⟩ | ⟨_, _, e⟩ | ⟨_, _, e⟩ <;> rw [State.move, e]
    · exact same rfl rfl rfl rfl
    · exact same rfl rfl rfl rfl
    · exact .ofReturn _
  | requireProgrammable =>
    rcases s.requireProgrammable_cases q n with ⟨_, e⟩ | ⟨_, e⟩ <;> rw [State.move, e]
    · exact same rfl rfl rfl rfl
    · exact .ofReturn _
  | wordNext k =>
    simp only [State.move]
    split <;> exact same rfl rfl rfl rfl
  | checksumEnd =>
    rcases s.checksumEnd_cases with ⟨_, e⟩ | ⟨_, e⟩ <;> rw [State.move, e] <;>
      exact .ofReturn _
  | warnVerify =>
    simp only [State.move]
    split <;> exact same rfl rfl rfl rfl
  | extReturn =>
    rcases s.externalEnd_cases with ⟨_, e⟩ | ⟨_, _, e⟩ | ⟨_, _, e⟩ <;> rw [State.move, e] <;>
      exact .ofReturn _
  | waitNext k =>
    have hcount := s.countWait_sameCounters
    rcases s.waitNext_cases q k with ⟨_, e⟩ | ⟨_, _, e⟩ | ⟨_, _, e⟩ <;> rw [State.move, e]
    · exact .ofReturn _ (by exact same hcount.index hcount.page hcount.chunk hcount.attempt)
    · exact same hcount.index hcount.page hcount.chunk hcount.attempt
    · exact .ofReturn _ (by exact same hcount.index hcount.page hcount.chunk hcount.attempt)
  | chunkInit | chunkNext _ | burstInit | burstNext _ | bitInit | bitNext _ | pageInit | pageNext _ | attemptInit
  | attemptNext _ => cases hc
  | _ => exact same rfl rfl rfl rfl

/-- What a move does to PAGE and the index: it counts in another loop, or sets both, or leaves both. -/
theorem State.move_pageIndex (s : State) (q : Seq) (n : Nat) (c : Ctl) :
    c.countsOther = true ∨ (s.move q n c).page = BitVec.ofNat 32 (s.move q n c).fsm.index ∨
      c ≠ .pageInit ∧ (s.move q n c).page = s.page ∧ (s.move q n c).fsm.index = s.fsm.index := by
  by_cases hc : c.counts = true
  · cases c with
    | pageInit => exact .inr (.inl rfl)
    | pageNext k =>
      simp only [State.move]
      split
      · exact .inr (.inl rfl)
      · exact .inr (.inr ⟨nofun, rfl, rfl⟩)
    | attemptInit => exact .inr (.inr ⟨nofun, rfl, rfl⟩)
    | attemptNext k =>
      simp only [State.move]
      split <;> exact .inr (.inr ⟨nofun, rfl, rfl⟩)
    | _ => exact .inl hc
  · have hsame := s.move_sameCounters q n (Bool.eq_false_iff.mpr hc)
    refine .inr (.inr ⟨?_, hsame.page, hsame.index⟩)
    rintro rfl
    exact hc rfl

/-- An attempt is counted to at most 100 (R250). -/
theorem State.move_attempt {s : State} {q : Seq} {n : Nat} {c : Ctl} (h : s.attempt.toNat ≤ eraseAttempts) :
    (s.move q n c).attempt.toNat ≤ eraseAttempts := by
  by_cases hc : c.counts = true
  · cases c with
    | attemptInit => exact Nat.zero_le _
    | attemptNext k =>
      simp only [State.move]
      split
      · rename_i hmore
        have hnext : (s.attempt + 1).toNat = s.attempt.toNat + 1 :=
          (BitVec.toNat_add _ _).trans (Nat.mod_eq_of_lt (hmore.2.trans (by decide)))
        exact hnext.trans_le hmore.2.le
      · exact h
    | chunkNext k | burstNext k | bitNext k | pageNext k =>
      simp only [State.move]
      split <;> exact h
    | chunkInit | burstInit | bitInit | pageInit => exact h
    | _ => cases hc
  · rw [(s.move_sameCounters q n (Bool.eq_false_iff.mpr hc)).attempt]
    exact h

/-- No return leads to a chunk's shift: no call stands before it. -/
theorem RunOk.caller_ne_chunk {s : State} {q : Seq} {n : Nat} (hpc : s.pc = .at q n) (hs : RunOk s) {f : Frame}
    {fs : List Frame} (hf : f :: fs <:+ s.callers) : Pc.at f.seq f.step ≠ .at .loadSram 6 := by
  intro heq
  obtain ⟨hseq, hstep⟩ := Pc.at.inj heq
  obtain ⟨q', hcalls⟩ := exists_callsSeq ((State.controlOk_at hpc).mp hs.control).2 (hf.mem List.mem_cons_self)
  rcases Frame.behindCall hcalls with ⟨k, c', hk, hm', hc', _⟩ | rfl
  · obtain rfl : k = 5 := by omega
    rw [hseq] at hm'
    cases hm'
    cases hc'
  · cases hseq

section

variable {s : State} {q : Seq} {n : Nat} {c : Ctl} (hpc : s.pc = .at q n) (hm : microAt q n = some (.ctl c))
  (hs : RunOk s)
include hpc hm hs

/-- The stream's index stays one of its chunks. -/
theorem RunOk.move_chunk (hp : (s.move q n c).pc = .at .loadSram 6) :
    (s.move q n c).fsm.index < chunkCount s.cfg s.bs.image ∧
      (s.move q n c).chunk = BitVec.ofNat 32 (s.move q n c).fsm.index := by
  rcases s.move_to q n c with ⟨k, _, hk, hp', _⟩ | ⟨q', pass, _, _, hp', _, _⟩ | ⟨f, fs, _, hf, hp', _⟩ | ⟨_, hp', _⟩ <;>
    rw [hp'] at hp
  · cases hp
    rcases eq_of_leads_to_chunk hm hk with rfl | rfl
    · have hvolatile : s.programming = true := by
        have hchain := ((State.controlOk_at hpc).mp hs.control).2
        have hroot := closedUpwards_isVolatile.root hchain rfl
        have hhost := chainOk_root hchain
        rw [State.programming_iff, State.root_at hpc]
        simp only [Seq.isVolatile, Bool.or_eq_true, beq_iff_eq] at hroot
        rcases hroot with hload | hpath
        · rw [hload] at hhost
          cases hhost
        · exact .inl (congrArg some hpath)
      exact ⟨chunkCount_pos hs.params (hs.setup hvolatile), rfl⟩
    · by_cases hmore : s.fsm.index + 1 < chunkCount s.cfg s.bs.image
      · rw [State.move, if_pos hmore]
        exact ⟨hmore, rfl⟩
      · rw [State.move, if_neg hmore, State.goto_pc] at hp'
        cases Pc.at.inj hp' with
        | intro _ hstep =>
          obtain rfl : n = 5 := by omega
          cases hm
  · cases hp
  · exact absurd hp (hs.caller_ne_chunk hpc hf)
  · cases hp

/-- A move in another loop does not stand within WriteImage. -/
theorem RunOk.move_outside (hother : c.countsOther = true) : ¬ (s.move q n c).inPages := by
  have hout : (!q.withinWriteImage) = true := by rw [outside_writeImage hm hother]; rfl
  have hreturns : c.returns = false ∧ c.calls = false := by
    cases c with
    | chunkInit | chunkNext _ | burstInit | burstNext _ | bitInit | bitNext _ => exact ⟨rfl, rfl⟩
    | _ => cases hother
  rintro (⟨q', k, hp, hin⟩ | ⟨f, hf, hin⟩)
  · rcases s.move_to q n c with ⟨k', _, _, hp', _⟩ | ⟨_, _, hc, _⟩ | ⟨_, _, hr, _⟩ | ⟨hr, _⟩
    · obtain ⟨rfl, _⟩ := Pc.at.inj (hp'.symm.trans hp)
      obtain ⟨rfl, _⟩ := inPageLoop_iff.mp hin
      cases hout
    · cases hreturns.2.symm.trans hc
    · cases hreturns.1.symm.trans hr
    · cases hreturns.1.symm.trans hr
  · rcases s.move_to q n c with ⟨_, _, _, _, hcs⟩ | ⟨_, _, hc, _⟩ | ⟨_, _, hr, _⟩ | ⟨hr, _⟩
    · have hPf := closedUpwards_outside.callers ((State.controlOk_at hpc).mp hs.control).2 hout f (hcs ▸ hf)
      rw [(inPageLoop_iff.mp hin).1] at hPf
      cases hPf
    · cases hreturns.2.symm.trans hc
    · cases hreturns.1.symm.trans hr
    · cases hreturns.1.symm.trans hr

omit hs in
/-- No move but the start of the loop leads into it. -/
theorem State.move_inPages (hinit : c ≠ .pageInit) (hin : (s.move q n c).inPages) : s.inPages := by
  have hloop : q = .writeImage → inPageLoop q n = true := by
    rintro rfl
    refine inPageLoop_iff.mpr ⟨rfl, Nat.pos_of_ne_zero ?_⟩
    rintro rfl
    exact hinit (Micro.ctl.inj (eq_pageInit hm))
  rcases s.move_to q n c with ⟨k, _, _, hp, hcs⟩ | ⟨q', _, _, _, hp, hcs, _⟩ | ⟨f, fs, _, hf, hp, hcs⟩ | ⟨_, hp, hcs⟩ <;>
    rcases hin with ⟨q', k', hp', hin⟩ | ⟨g, hg, hin⟩
  · obtain ⟨rfl, _⟩ := Pc.at.inj (hp.symm.trans hp')
    exact .inl ⟨q, n, hpc, hloop (inPageLoop_iff.mp hin).1⟩
  · exact .inr ⟨g, hcs ▸ hg, hin⟩
  · obtain ⟨rfl, rfl⟩ := Pc.at.inj (hp.symm.trans hp')
    cases (inPageLoop_iff.mp hin).2
  · rcases List.mem_cons.mp (hcs ▸ hg) with rfl | hg
    · exact .inl ⟨q, n, hpc, hloop (inPageLoop_iff.mp hin).1⟩
    · exact .inr ⟨g, hg, hin⟩
  · obtain ⟨rfl, rfl⟩ := Pc.at.inj (hp.symm.trans hp')
    exact .inr ⟨f, hf.mem List.mem_cons_self, hin⟩
  · exact .inr ⟨g, hf.mem (List.mem_cons_of_mem f (hcs ▸ hg)), hin⟩
  · cases hp.symm.trans hp'
  · cases hcs ▸ hg

/-- PAGE goes on showing the index of the loop of WriteImage. -/
theorem RunOk.move_page (hin : (s.move q n c).inPages) :
    (s.move q n c).page = BitVec.ofNat 32 (s.move q n c).fsm.index := by
  rcases s.move_pageIndex q n c with hother | hset | ⟨hinit, hpage, hindex⟩
  · exact absurd hin (hs.move_outside hpc hm hother)
  · exact hset
  · rw [hpage, hindex]
    exact hs.page (State.move_inPages hpc hm hinit hin)

end

/-- What the setup checks established is of fields that no move changes. -/
theorem Unmoved.setupOk {s t : State} (h : Unmoved s t) : t.setupOk = s.setupOk := by
  simp only [State.setupOk, h.mode, h.bs, h.mcuImgSel, h.mcu]

/-- A move goes on with the host operation in progress, whose setup checks passed. -/
theorem State.moved?_setup {s t : State} (hmv : s.moved? = some t) (hu : Unmoved s t)
    (hs : s.programming = true → s.setupOk = true) (hp : t.programming = true) : t.setupOk = true := by
  rcases State.moved?_root hmv with h | h
  · rw [hu.setupOk]
    exact hs (State.programming_congr h ▸ hp)
  · cases (State.programming_idle h).symm.trans hp

theorem State.moved?_runOk {s t : State} (hs : RunOk s) (hmv : s.moved? = some t) : RunOk t := by
  have hcontrol := State.moved?_controlOk hs.control hmv
  obtain ⟨q, n, hpc, ⟨c, hm, rfl⟩ | ⟨d, hm, _, rfl⟩⟩ := s.moved?_cases hmv
  · have hu := s.move_unmoved q n c
    exact {
      control := hcontrol
      params := by rw [hu.cfg]; exact hs.params
      setup := State.moved?_setup hmv hu hs.setup
      chunk := by rw [hu.cfg, hu.bs]; exact hs.move_chunk hpc hm
      page := hs.move_page hpc hm
      attempt := State.move_attempt hs.attempt }
  · refine ⟨hcontrol, hs.params, State.moved?_setup hmv (by constructor <;> rfl) hs.setup, ?_, ?_, hs.attempt⟩
    · rintro ⟨⟩
      cases hm
    · rintro (⟨_, _, ⟨⟩, hin⟩ | hin)
      · refine hs.page (.inl ⟨q, n, hpc, inPageLoop_iff.mpr ⟨(inPageLoop_iff.mp hin).1, Nat.pos_of_ne_zero ?_⟩⟩)
        rintro rfl
        rw [(inPageLoop_iff.mp hin).1] at hm
        cases hm
      · exact hs.page (.inr hin)

theorem State.settled_runOk {s : State} (h : RunOk s) : RunOk s.settled :=
  State.settled_induct RunOk (fun _ _ => State.moved?_runOk) h

/-! The engine's steps while a host operation runs. -/

/-- What a step of a running operation leaves before the step pointer comes to rest: the counters, the images and the
configuration are as before. -/
structure RunsOn (s u : State) : Prop where
  enters : Enters s u
  counters : SameCounters s u
  cfg : u.cfg = s.cfg
  mode : u.mode = s.mode
  mcuImgSel : u.mcuImgSel = s.mcuImgSel
  bs : u.bs = s.bs
  mcu : u.mcu = s.mcu

theorem RunsOn.setupOk {s u : State} (h : RunsOn s u) : u.setupOk = s.setupOk := by
  simp only [State.setupOk, h.mode, h.bs, h.mcuImgSel, h.mcu]

theorem RunsOn.runOk {s u : State} (hrun : s.pc ≠ .idle) (hs : RunOk s) (h : RunsOn s u) : RunOk u where
  control := h.enters.controlOk hs.control
  params := by rw [h.cfg]; exact hs.params
  setup hp := by
    rw [h.setupOk]
    exact hs.setup (State.programming_congr (h.enters.root.resolve_right hrun) ▸ hp)
  chunk hp := by
    have hsp : s.pc = .at .loadSram 6 := by
      cases h.enters with
      | stays hpc => exact hpc.symm.trans hp
      | host _ _ hidle => exact absurd hidle hrun
      | spi q _ _ hpc => cases hpc.symm.trans hp
      | passes q n m _ hm hctl hpc =>
        cases hpc.symm.trans hp
        cases hm
        exact absurd rfl (hctl _)
    rw [h.cfg, h.bs, h.counters.index, h.counters.chunk]
    exact hs.chunk hsp
  page hin := by
    rw [h.counters.page, h.counters.index]
    refine hs.page ?_
    cases h.enters with
    | stays hpc hcs => simpa only [State.inPages, hpc, hcs] using hin
    | host _ _ hidle => exact absurd hidle hrun
    | spi q _ _ hpc hcs =>
      rcases hin with ⟨q', k, hp, hk⟩ | ⟨f, hf, hk⟩
      · cases hpc.symm.trans hp
        cases (inPageLoop_iff.mp hk).2
      · rcases List.mem_cons.mp (hcs ▸ hf) with rfl | hf
        · cases hk
        · exact .inr ⟨f, hf, hk⟩
    | passes q n m hpcs hm hctl hpc hcs =>
      rcases hin with ⟨q', k, hp, hk⟩ | ⟨f, hf, hk⟩
      · cases hpc.symm.trans hp
        obtain ⟨rfl, _⟩ := inPageLoop_iff.mp hk
        refine .inl ⟨_, n, hpcs, inPageLoop_iff.mpr ⟨rfl, Nat.pos_of_ne_zero ?_⟩⟩
        rintro rfl
        exact hctl _ (eq_pageInit hm)
      · exact .inr ⟨f, hcs ▸ hf, hk⟩
  attempt := by rw [h.counters.attempt]; exact hs.attempt

/-- A transport operation of a running sequence changes none of this: construction's capture does not stand in one. -/
theorem State.perform_runsOn {s u : State} {q : Seq} {n : Nat} {w : Wire} (hc : s.controlOk = true) (hpc : s.pc = .at q n)
    (hm : microAt q n = some (.op w)) (hu : s.perform w = .ok u) : RunsOn s { u with pc := u.pc.next } := by
  obtain ⟨hp, hcs, hst⟩ := State.perform_control hu
  have hw : w ≠ .captureId := by
    rintro rfl
    exact ne_construct ((State.controlOk_at hpc).mp hc).2 (eq_of_captureId hm)
  have henters : Enters s { u with pc := u.pc.next } :=
    .passes q n _ hpc hm nofun (congrArg Pc.next (hp.trans hpc)) hcs (by simpa using hst)
  cases State.perform_ok hu with
  | captureId => exact absurd rfl hw
  | readSt ht | readUc ht | readReturn ht | spiRead _ _ ht | quiet _ ht =>
    rw [ht] at henters ⊢
    exact ⟨henters, ⟨rfl, rfl, rfl, rfl⟩, rfl, rfl, rfl, rfl, rfl⟩

/-- A request of the external algorithm is refused, or starts its sequence. -/
theorem spiRequest_runsOn {s t : State} {bs left : List Byte} {i : Instr} (hpc : s.pc = .at .externalFlash algorithmStep)
    (hd : decodeSpi bs = .ok (i, left)) (ht : exec i s.popExt = .next t) : ∃ u, t = u.settled ∧ RunsOn s u := by
  have hport := decodeSpi_port hd
  have hrefused : ∀ t : State, t.pc = s.pc → t = t.settled := fun t ht =>
    (State.settled_of_rest (State.moved?_algorithm (ht.trans hpc) rfl)).symm
  cases i with
  | transfer c tx rl =>
    rcases execTransfer_cases c tx rl s.popExt with ⟨_, e⟩ | ⟨_, e⟩ <;> rw [exec, e] at ht <;> cases ht
    · exact ⟨_, hrefused _ rfl, .stays rfl rfl rfl, ⟨rfl, rfl, rfl, rfl⟩, rfl, rfl, rfl, rfl, rfl⟩
    · exact ⟨_, rfl, .spi .spiTransfer rfl hpc rfl rfl rfl, ⟨rfl, rfl, rfl, rfl⟩, rfl, rfl, rfl, rfl, rfl⟩
  | waitUntil c m x b v =>
    rcases execWaitUntil_cases c m x b v s.popExt with ⟨_, e⟩ | ⟨_, e⟩ <;> rw [exec, e] at ht <;> cases ht
    · exact ⟨_, hrefused _ rfl, .stays rfl rfl rfl, ⟨rfl, rfl, rfl, rfl⟩, rfl, rfl, rfl, rfl, rfl⟩
    · exact ⟨_, rfl, .spi .spiWait rfl hpc rfl rfl rfl, ⟨rfl, rfl, rfl, rfl⟩, rfl, rfl, rfl, rfl, rfl⟩
  | _ => cases hport

theorem EngineTo.runsOn {s t : State} (hc : s.controlOk = true) (hrun : s.pc ≠ .idle) (h : EngineTo s t) :
    ∃ u, t = u.settled ∧ RunsOn s u := by
  cases h with
  | waits hF ht =>
    subst ht
    exact ⟨t, (State.settled_of_rest (State.moved?_waiting hF)).symm, .stays rfl rfl rfl, ⟨rfl, rfl, rfl, rfl⟩, rfl, rfl, rfl,
      rfl, rfl⟩
  | hostWrite _ _ hpc | hostRequest _ _ _ _ hpc => exact absurd hpc hrun
  | command q n c hpc hm ht =>
    subst ht
    have hlatch : microAt q (n + 1) = some .latch := by
      rcases hm with hm | ⟨b, hm, _⟩
      · exact latch_after_cmd hm
      · exact latch_after_cmdByte hm
    have henters : Enters s (({ s with pc := .at q (n + 1) } : State).shiftCommand c (effectOf c)) := by
      rcases hm with hm | ⟨b, hm, _⟩
      · exact .passes q n _ hpc hm nofun rfl rfl (.inr ⟨nofun, rfl⟩)
      · exact .passes q n _ hpc hm nofun rfl rfl (.inr ⟨nofun, rfl⟩)
    exact ⟨_, (State.settled_of_rest (State.moved?_latch rfl hlatch)).symm, henters, ⟨rfl, rfl, rfl, rfl⟩, rfl, rfl, rfl,
      rfl, rfl⟩
  | latch q n hpc hm ht =>
    subst ht
    exact ⟨_, rfl, .passes q n _ hpc hm nofun (congrArg Pc.next hpc) rfl (.inr ⟨nofun, rfl⟩), ⟨rfl, rfl, rfl, rfl⟩, rfl,
      rfl, rfl, rfl, rfl⟩
  | wire q n w u hpc hm hu ht =>
    subst ht
    exact ⟨_, rfl, State.perform_runsOn hc hpc hm hu⟩
  | spiRequest q n _ _ _ _ hpc hm _ hd ht =>
    obtain ⟨rfl, rfl⟩ := eq_of_algorithm hm
    exact spiRequest_runsOn hpc hd ht
  | algorithmEnd q n _ _ hpc hm _ ht =>
    subst ht
    exact ⟨_, rfl, .passes q n _ hpc hm nofun (congrArg Pc.next hpc) rfl (.inr ⟨nofun, rfl⟩), ⟨rfl, rfl, rfl, rfl⟩, rfl,
      rfl, rfl, rfl, rfl⟩
  | unsettled _ _ _ _ _ ht =>
    subst ht
    exact ⟨s, rfl, .stays rfl rfl rfl, ⟨rfl, rfl, rfl, rfl⟩, rfl, rfl, rfl, rfl, rfl⟩

/-! The engine's steps while IDLE. -/

theorem RunOk.ofIdle {s : State} (hpc : s.pc = .idle) (hcs : s.callers = []) (hwf : s.cfg.wf = true)
    (hat : s.attempt.toNat ≤ eraseAttempts) : RunOk s where
  control := (State.controlOk_idle hpc).mpr hcs
  params := hwf
  setup hp := by cases (State.programming_idle (State.root_idle hpc)).symm.trans hp
  chunk hp := by cases hpc.symm.trans hp
  page hin := by
    rcases hin with ⟨_, _, hp, _⟩ | ⟨f, hf, _⟩
    · cases hpc.symm.trans hp
    · cases hcs ▸ hf
  attempt := hat

/-- A host operation whose sequence starts meets the invariant, when its setup checks have passed. -/
theorem RunOk.start {s : State} {q : Seq} (hq : q.isHostLevel = true) (hwf : s.cfg.wf = true)
    (hat : s.attempt.toNat ≤ eraseAttempts)
    (hsetup : s.setupOk = true ∨ q = .resetDevice ∨ q = .readIdCode ∨ q = .readStatusRegister) :
    RunOk (s.start q) := by
  refine State.settled_runOk ⟨?_, hwf, ?_, nofun, ?_, hat⟩
  · exact (State.controlOk_at rfl).mpr ⟨rom_pos q, hq⟩
  · intro hp
    rcases hsetup with h | rfl | rfl | rfl
    · exact h
    all_goals cases hp
  · rintro (⟨_, _, ⟨⟩, hin⟩ | ⟨_, hf, _⟩)
    · cases (inPageLoop_iff.mp hin).2
    · cases hf

/-- The setup checks establish what the invariant says of MODE and the images (R342). -/
theorem setupOk_of_setupFailure {s : State} {m : ProgMode} (hm : s.mode = some m) (h : setupFailure s m = none) :
    s.setupOk = true := by
  unfold setupFailure at h
  simp only [ite_eq_iff, reduceCtorEq, and_false, false_or, and_true] at h
  obtain ⟨_, _, _, himage, hmcu⟩ := h
  revert himage hmcu
  simp only [State.setupOk, hm, Option.isSome_some]
  cases s.bs.parses <;> cases s.bs.image.ok <;> cases s.mcuImgSel <;> cases s.mcu.ok <;> decide

/-- A host request is refused or fails its setup checks, and the engine stays IDLE, or it starts its sequence. -/
theorem hostRequest_runOk {s t : State} {bs left : List Byte} {i : Instr} (hidle : s.pc = .idle) (hs : RunOk s)
    (hd : decodeHost bs = .ok (i, left)) (ht : exec i s.popHost = .next t) : RunOk t := by
  have hport := decodeHost_port hd
  have hcs := (State.controlOk_idle hidle).mp hs.control
  cases i with
  | program o v =>
    rcases execProgram_cases o v s.popHost with ⟨_, e⟩ | ⟨m, hm, ⟨c, _, e⟩ | ⟨hf, e⟩⟩ <;> rw [exec, e] at ht <;> cases ht
    · exact .ofIdle hidle hcs hs.params hs.attempt
    · exact .ofIdle rfl rfl hs.params hs.attempt
    · exact .start (pathOf_isHostLevel m _) hs.params hs.attempt (.inl (setupOk_of_setupFailure hm hf))
  | reset => cases ht; exact .start rfl hs.params hs.attempt (.inr (.inl rfl))
  | readIdCode => cases ht; exact .start rfl hs.params hs.attempt (.inr (.inr (.inl rfl)))
  | readStatusRegister => cases ht; exact .start rfl hs.params hs.attempt (.inr (.inr (.inr rfl)))
  | _ => cases hport

theorem State.hostWrites_runOk {s : State} (w : HostInput) (hidle : s.pc = .idle) (hs : RunOk s) :
    RunOk (s.hostWrites w) := by
  have hcs := (State.controlOk_idle hidle).mp hs.control
  cases w with
  | setMcuImg im => cases im <;> exact .ofIdle hidle hcs hs.params hs.attempt
  | _ => exact .ofIdle hidle hcs hs.params hs.attempt

theorem EngineTo.runOk {s t : State} (hs : RunOk s) (h : EngineTo s t) : RunOk t := by
  by_cases hidle : s.pc = .idle
  · have hcs := (State.controlOk_idle hidle).mp hs.control
    cases h with
    | waits _ ht => rw [ht]; exact hs
    | hostWrite w _ _ _ _ ht =>
      rw [ht]
      exact State.hostWrites_runOk (s := s.popHost) w hidle (.ofIdle hidle hcs hs.params hs.attempt)
    | hostRequest _ _ _ _ hpc _ hd ht => exact hostRequest_runOk hpc hs hd ht
    | command _ _ _ hpc | latch _ _ hpc | wire _ _ _ _ hpc | spiRequest _ _ _ _ _ _ hpc | algorithmEnd _ _ _ _ hpc
    | unsettled _ _ _ hpc => cases hidle.symm.trans hpc
  · obtain ⟨u, rfl, hu⟩ := h.runsOn hs.control hidle
    exact State.settled_runOk (hu.runOk hidle hs)

theorem step_runOk {s t : State} (hs : RunOk s) (h : step s = .next t) : RunOk t := by
  rcases step_next h with ⟨_, rfl⟩ | ⟨_, he⟩
  · exact ⟨hs.control, hs.params, hs.setup, hs.chunk, hs.page, hs.attempt⟩
  · exact he.runOk hs

/-! No fault (R70, R234). -/

/-- No instruction faults. -/
theorem exec_not_fault (i : Instr) (s : State) : faults (exec i s) = false := by
  cases i with
  | program o u =>
    rcases execProgram_cases o u s with ⟨_, e⟩ | ⟨m, _, ⟨c, _, e⟩ | ⟨_, e⟩⟩ <;> rw [exec, e] <;> rfl
  | _ => rfl

/-- What is decoded at a port is refused or run. -/
theorem engineStep_bytes_not_fault {s : State} {p : Port} {bs : List Byte} (hF : s.fetch = .bytes p bs) :
    faults (engineStep s) = false := by
  simp only [engineStep, hF]
  split
  · rfl
  · exact exec_not_fault _ _

/-- A chunk of the stream lies within the image. -/
theorem memRead_chunk {s : State} (h : s.fsm.index < chunkCount s.cfg s.bs.image) :
    s.bs.image.memRead (s.fsm.index * s.cfg.chunkBytes) (chunkSize s.cfg s.bs.image s.fsm.index) ≠ none := by
  have hlt : s.fsm.index * s.cfg.chunkBytes < s.bs.image.bitLen / 8 := chunk_start_lt h
  have hle : s.fsm.index * s.cfg.chunkBytes + chunkSize s.cfg s.bs.image s.fsm.index ≤ s.bs.image.bitLen / 8 := by
    unfold chunkSize Image.len
    omega
  rw [Image.memRead_of_le hle]
  nofun

theorem wireStep_not_fault {s : State} {q : Seq} {n : Nat} {w : Wire} (hs : RunOk s) (hpc : s.pc = .at q n)
    (hm : microAt q n = some (.op w)) : faults (wireStep w s) = false := by
  unfold wireStep
  split
  · rfl
  · rename_i f hf
    obtain ⟨rfl, hnone⟩ := State.perform_error hf
    obtain ⟨rfl, rfl⟩ := eq_of_chunkShift hm
    exact absurd hnone (memRead_chunk (hs.chunk hpc).1)

theorem engineStep_not_fault {s : State} (hs : RunOk s) : faults (engineStep s) = false := by
  rcases hpc : s.pc with _ | ⟨q, n⟩
  · rcases fetchHost_cases s.hostIn with ⟨_, hf⟩ | ⟨bs, rest, hin, _⟩ | ⟨w, rest, _, _, hf⟩
    · simp only [engineStep, State.fetch, hpc, hf]
      rfl
    · exact engineStep_bytes_not_fault (State.fetch_host hpc hin)
    · simp only [engineStep, State.fetch, hpc, hf]
      rfl
  · obtain ⟨m, hm⟩ : ∃ m, microAt q n = some m :=
      ⟨_, List.getElem?_eq_getElem ((State.controlOk_at hpc).mp hs.control).1⟩
    cases m with
    | cmd c =>
      simp only [engineStep, State.fetch, hpc, hm]
      exact exec_not_fault _ _
    | cmdByte b => exact engineStep_bytes_not_fault (State.fetch_cmdByte hpc hm)
    | op w =>
      simp only [engineStep, State.fetch, hpc, hm]
      exact wireStep_not_fault hs hpc hm
    | latch | ctl _ =>
      simp only [engineStep, State.fetch, hpc, hm]
      rfl
    | algorithm =>
      rcases fetchExt_cases s.extIn with ⟨_, hf⟩ | ⟨bs, rest, hin, _⟩ | ⟨ok, rest, _, hf⟩
      · simp only [engineStep, State.fetch, hpc, hm, hf]
        rfl
      · exact engineStep_bytes_not_fault (State.fetch_spi hpc hm hin)
      · simp only [engineStep, State.fetch, hpc, hm, hf]
        rfl

/-- Settles O51, the invariant with its parts named kept by each move and each step; only a chunk's shift could fault, and its
chunk lies within the image. -/
theorem runKept : Obligations.RunKept := by
  refine ⟨fun s t hs h => ?_, fun s hs => ?_⟩
  · exact State.runOk_iff.mpr (step_runOk (State.runOk_iff.mp hs) h)
  · unfold step
    split
    · rfl
    · exact engineStep_not_fault (State.runOk_iff.mp hs)

end Sys2Proof.Machine
end

section
/-! PROOFS. Outcomes: how severe each is, and how one returns to a caller or to RESULT (R20, R365, R368 to R370). -/

namespace Sys2Proof.Machine

theorem rank_worst (a b : SeqOutcome) : (worst a b).rank = max a.rank b.rank := by
  unfold worst
  split <;> omega

theorem worst_of_lt {a b : SeqOutcome} (h : a.rank < b.rank) : worst a b = b := if_pos h

theorem worst_of_le {a b : SeqOutcome} (h : b.rank ≤ a.rank) : worst a b = a := if_neg (Nat.not_lt.mpr h)

theorem worst_assoc (a b c : SeqOutcome) : worst (worst a b) c = worst a (worst b c) := by
  rcases lt_or_ge b.rank c.rank with hbc | hcb <;> rcases lt_or_ge a.rank b.rank with hab | hba
  · rw [worst_of_lt hab, worst_of_lt hbc, worst_of_lt (hab.trans hbc)]
  · rw [worst_of_le hba, worst_of_lt hbc]
  · rw [worst_of_lt hab, worst_of_le hcb, worst_of_lt hab]
  · rw [worst_of_le hba, worst_of_le hcb, worst_of_le hba, worst_of_le (hcb.trans hba)]

/-- Settles O25: the ranks, and the choice between two outcomes by them. -/
theorem worstOutcome : Obligations.WorstOutcome := by
  refine ⟨rfl, fun _ _ => rfl, fun _ _ => rfl, fun a b => ⟨rank_worst a b, ?_, ?_⟩, worst_assoc⟩
  · rcases lt_or_ge a.rank b.rank with h | h
    · exact .inr (worst_of_lt h)
    · exact .inl (worst_of_le h)
  · exact fun heq => worst_of_le heq.ge

/-- Settles O24: what is left of the callers in each of the four cases. -/
theorem outcomesPropagate : Obligations.OutcomesPropagate := by
  refine ⟨fun s o f fs ho hcallers => State.returnOutcome_of_not_fatal ho hcallers, fun s o hcallers => ?_,
    fun s o pre g fs ho hcallers hpre hg => ?_, fun s o ho hall => ?_⟩
  · exact State.returnOutcome_finish (by rw [hcallers]; rfl)
  · exact State.returnOutcome_resume (by rw [hcallers]; exact unwind_stop ho hg fs hpre)
  · exact State.returnOutcome_finish (unwind_all ho hall)

end Sys2Proof.Machine
end

section
/-! PROOFS. The host's interface: configuration writes, refused requests, the setup checks of program, and the three requests
that read or reset the device (R340 to R347, R350, R361, R373). -/

namespace Sys2Proof.Machine

open Sys2Proof.Claims

/-! Configuration writes (R350). -/

/-- A host input that is no request is taken by one step. -/
theorem step_of_hostWrite {s : State} {w : HostInput} {rest : List HostInput} (hturn : engineTurn s) (hpc : s.pc = .idle)
    (hin : s.hostIn = w :: rest) (hw : ∀ bs, w ≠ .request bs) :
    step s = .next (({ s with hostIn := rest } : State).hostWrites w) := by
  have hF : s.fetch = .hostWrite w := by
    cases w with
    | request bs => exact absurd rfl (hw bs)
    | _ => simp only [State.fetch, hpc, hin, fetchHost]
  simp only [step_of_engine hturn, engineStep, hF, State.popHost, hin, List.tail_cons]

/-- Settles O42: what each write of the host's changes. -/
theorem hostWrites : Obligations.HostWrites := by
  intro s rest hturn hpc
  exact ⟨fun _ hin => step_of_hostWrite hturn hpc hin nofun, fun _ hin => step_of_hostWrite hturn hpc hin nofun,
    fun hin => step_of_hostWrite hturn hpc hin nofun, fun _ hin => step_of_hostWrite hturn hpc hin nofun,
    fun _ hin => step_of_hostWrite hturn hpc hin nofun, fun _ hin => step_of_hostWrite hturn hpc hin nofun⟩

/-! Refused requests (R373). -/

/-- Settles O14: MODE unset, two lengths that differ, the bound 0. -/
theorem refusedRequests : Obligations.RefusedRequests := by
  refine ⟨fun s o u hmode => ?_, fun s c l n hne => ?_, fun s c m e v => rfl⟩
  · rcases execProgram_cases o u s with ⟨_, e⟩ | ⟨m, hm, _⟩
    · exact e
    · cases hmode.symm.trans hm
  · have hdisagree : lengthsDisagree (some l) (some n) = true := bne_iff_ne.mpr hne.symm
    rcases execTransfer_cases c (some l) (some n) s with ⟨_, e⟩ | ⟨hagree, _⟩
    · exact e
    · cases hagree.symm.trans hdisagree

/-! The setup checks of program (R342). -/

theorem Image.not_ok (im : Image) : (!im.ok) = (im.bitLen == 0 || im.bitLen % 8 != 0) := by
  rcases Nat.eq_zero_or_pos im.bitLen with h | h
  · simp [Image.ok, h]
  · simp [Image.ok, h, h.ne', bne]

/-- The code of the first check of a list that fails. -/
theorem find?_check_cons (b : Bool) (c : Code) (l : List (Bool × Code)) :
    (((b, c) :: l).find? (·.1)).map (·.2) = if b then some c else (l.find? (·.1)).map (·.2) := by
  cases b <;> rfl

/-- SETUP_CHECKS finds the first check that fails in the order of R342. -/
theorem setupFailure_eq (s : State) (m : ProgMode) (o : Word) (u : Bool) : setupFailure (s.latchProgram o u) m =
    ((setupChecks s m (s.extSel || s.var.extFlashForced)).find? (·.1)).map (·.2) := by
  simp only [setupChecks, find?_check_cons, List.find?_nil, Option.map_none, setupFailure, State.latchProgram,
    Image.not_ok, Bool.or_assoc]

/-- Settles O15: the ConfigError of the check found. -/
theorem setupCheckFails : Obligations.SetupCheckFails := by
  intro s m o u b c hmode hfind
  have hfailure : setupFailure (s.latchProgram o u) m = some c := by rw [setupFailure_eq, hfind]; rfl
  rcases execProgram_cases o u s with ⟨hunset, _⟩ | ⟨m', hm', ⟨c', hc', e⟩ | ⟨hpass, _⟩⟩
  · cases hmode.symm.trans hunset
  · cases hmode.symm.trans hm'
    cases hfailure.symm.trans hc'
    exact e
  · cases hmode.symm.trans hm'
    cases hfailure.symm.trans hpass

/-! The start of program's paths (R340, R341). -/

theorem State.start_programFlash (s : State) : s.start .programFlash =
    { s with pc := .at .programFlash 0, callers := [], returned := none } :=
  State.settled_of_rest (State.moved?_op (w := .setFreq flashProgClockHz) rfl rfl nofun)

theorem State.start_externalFlash (s : State) : s.start .externalFlash =
    { s with pc := .at .externalFlash 0, callers := [], returned := none } :=
  State.settled_of_rest (State.moved?_op (w := .setFreq extFlashClockHz) rfl rfl nofun)

/-- The volatile path calls EraseSRAM, which calls Enable. -/
theorem State.start_programVolatile (s : State) : s.start .programVolatile =
    { s with pc := .at .enable 0, callers := [⟨.eraseSram, 1, true⟩, ⟨.programVolatile, 2, true⟩], returned := none,
             fsm := { s.fsm with acc := .ok } } := by
  rw [State.start, State.settled_ctl (q := .programVolatile) (n := 0) (c := .accInit) rfl rfl,
    State.settled_ctl (q := .programVolatile) (n := 1) (c := .call .eraseSram true) rfl rfl,
    State.settled_ctl (q := .eraseSram) (n := 0) (c := .call .enable true) rfl rfl]
  exact State.settled_of_rest (State.moved?_cmd (c := .enable) rfl rfl)

/-- Settles O16: with no check found the path is started, and its step pointer comes to rest. -/
theorem programStartsPath : Obligations.ProgramStartsPath := by
  intro s m o u hmode hpass
  have hnone : setupFailure (s.latchProgram o u) m = none := by
    rw [setupFailure_eq, List.find?_eq_none.mpr fun r hr => by simp [hpass r hr]]
    rfl
  have hexec : exec (.program o u) s =
      .next ((s.latchProgram o u).start (pathOf m (s.extSel || s.var.extFlashForced))) := by
    rcases execProgram_cases o u s with ⟨hunset, _⟩ | ⟨m', hm', ⟨c, hc, _⟩ | ⟨_, e⟩⟩
    · cases hmode.symm.trans hunset
    · cases hmode.symm.trans hm'
      cases hnone.symm.trans hc
    · cases hmode.symm.trans hm'
      exact e
  rw [hexec]
  refine ⟨_, rfl, ?_⟩
  cases m with
  | volatile =>
    rw [pathOf, State.start_programVolatile]
    exact ⟨rfl, fun a => ⟨rfl, rfl⟩, fun _ => ⟨rfl, rfl, rfl⟩, nofun, nofun⟩
  | nonVolatile =>
    rcases hext : (s.extSel || s.var.extFlashForced) with _ | _
    · rw [pathOf, if_neg Bool.false_ne_true, State.start_programFlash]
      refine ⟨?_, fun a => ⟨rfl, rfl⟩, nofun, fun _ h => (Bool.false_ne_true h).elim, fun _ _ => ⟨rfl, rfl, rfl⟩⟩
      rw [← hext]
      rfl
    · rw [pathOf, if_pos rfl, State.start_externalFlash]
      refine ⟨?_, fun a => ⟨rfl, rfl⟩, nofun, fun _ _ => ⟨rfl, rfl, rfl⟩, fun _ h => (Bool.false_ne_true h.symm).elim⟩
      rw [← hext]
      rfl

/-! The requests that end with their own sequence's Ok (R345 to R347). -/

/-- A request whose sequence starts with a command starts at it. -/
theorem State.start_of_cmd {s : State} {q : Seq} {c : Cmd} (hm : microAt q 0 = some (.cmd c)) :
    s.start q = { s with pc := .at q 0, callers := [], returned := none } :=
  State.settled_of_rest (State.moved?_cmd rfl hm)

/-- A host operation's own return of Ok ends it. -/
theorem EngineReaches.finish {s t : State} {q : Seq} {n : Nat} (h : EngineReaches s t.settled) (hpc : t.pc = .at q n)
    (hm : microAt q n = some (.ctl .retOk)) (hcallers : t.callers = []) : EngineReaches s (t.finish .ok) := by
  have hnone : unwind .ok t.callers = [] := by
    rw [hcallers]
    rfl
  rw [State.settled_ctl hpc hm, State.move, State.returnOutcome_finish hnone,
    State.settled_of_rest (State.moved?_idle rfl)] at h
  exact h

/-- Settles O13: the reload pair, then Ok. -/
theorem resetRequest : Obligations.ResetRequest := by
  refine ⟨fun _ => rfl, fun s => ⟨_, rfl, State.start_of_cmd (c := .reload) rfl, ?_⟩⟩
  rw [State.start_of_cmd (c := .reload) rfl]
  refine ⟨fun a => ⟨rfl, rfl⟩, EngineReaches.reaches ?_ fun a => ⟨rfl, rfl⟩⟩
  have hpair := engineReaches_commandPair (s := { s with callers := [], returned := none }) (q := .resetDevice) (n := 0)
    (c := .reload) (c' := .noop) rfl rfl
  rw [State.settled_of_rest (State.moved?_cmd (c := .reload) rfl rfl)] at hpair
  exact hpair.finish rfl rfl rfl

/-- The step of the identity read's capture, which drains the queue. -/
theorem engineReaches_readReturn {s : State} {q : Seq} {n : Nat} (hm : microAt q n = some (.op .readReturn)) :
    EngineReaches (s.goto q n) (State.settled
      { s with xport := afterOps s.xport [.dr 32 readProbe .runTestIdle true],
               returned := some (.idCode s.answerWord), pc := .at q (n + 1) }) := by
  refine EngineReaches.step_withPerformed (p := s.readReturn.xport.performed) ?_
  rw [engineStep_wire rfl hm rfl, ← State.settled_withPerformed]
  rfl

/-- Settles O11: the identity read, whose word alone is returned. -/
theorem readIdCode : Obligations.ReadIdCode := by
  refine ⟨fun _ => rfl, fun s => ⟨_, none, rfl, State.start_of_cmd (c := .readIdcode) rfl, ?_⟩⟩
  rw [State.start_of_cmd (c := .readIdcode) rfl]
  refine ⟨fun a => ⟨rfl, rfl⟩, EngineReaches.reaches ?_ fun a => ⟨rfl, rfl⟩, fun rs h => State.answerWord_scripted h⟩
  have hcommand := engineReaches_commandStretch (s := { s with callers := [], returned := none }) (q := .readIdCode)
    (n := 0) (c := .readIdcode) rfl
  rw [State.settled_of_rest (State.moved?_cmd (c := .readIdcode) rfl rfl),
    State.settled_of_rest (State.moved?_op (w := .readReturn) rfl rfl nofun)] at hcommand
  exact (hcommand.trans (engineReaches_readReturn rfl)).finish rfl rfl rfl

/-- Settles O12: the status read, whose word and flags are returned. -/
theorem readStatusRegister : Obligations.ReadStatusRegister := by
  refine ⟨fun _ => rfl, fun s => ⟨_, none, rfl, State.start_of_cmd (c := .readStatus) rfl, ?_⟩⟩
  rw [State.start_of_cmd (c := .readStatus) rfl]
  refine ⟨fun a => ⟨rfl, rfl⟩, EngineReaches.reaches ?_ fun a => ⟨rfl, rfl⟩⟩
  have hread := engineReaches_statusRead
    (s := { s with pc := .at .readStatusRegister 0, callers := [], returned := none }) rfl ⟨rfl, rfl, rfl⟩
  rw [State.settled_ctl (c := .returnStatus) rfl rfl] at hread
  exact hread.finish rfl rfl rfl

end Sys2Proof.Machine
end

section
/-! PROOFS. The gate of configuration edit mode: the step pointer reaches a gated command's latch clocks only behind Enable, and
no other command is latched there before it (R48, R188, R191, R375). -/

namespace Sys2Proof.Machine

/-! The effect that waits for its latch clocks (R173). -/

@[simp] theorem State.returnOutcome_latch (s : State) (o : SeqOutcome) : (s.returnOutcome o).fsm.latch = s.fsm.latch := by
  rcases s.returnOutcome_cases o with ⟨_, h⟩ | ⟨_, _, _, h⟩
  · rw [h]
    rfl
  · rw [h]

/-- No move changes the effect that waits. -/
theorem State.move_latch (s : State) (q : Seq) (n : Nat) (c : Ctl) : (s.move q n c).fsm.latch = s.fsm.latch := by
  cases c with
  | callEncoding => simp only [State.move]; split <;> rfl
  | chunkNext k | attemptNext k | burstNext k | pageNext k | wordNext k | bitNext k =>
    simp only [State.move]
    split <;> rfl
  | warnVerify => cases h : s.verifyReq <;> simp only [State.move, h] <;> rfl
  | retOk | retAcc | retRet | replyBytes => exact State.returnOutcome_latch _ _
  | retDone want code =>
    rcases s.returnByDone_cases want code with ⟨_, e⟩ | ⟨_, e⟩ <;> rw [State.move, e] <;> exact State.returnOutcome_latch _ _
  | checksumEnd =>
    rcases s.checksumEnd_cases with ⟨_, e⟩ | ⟨_, e⟩ <;> rw [State.move, e] <;> exact State.returnOutcome_latch _ _
  | extReturn =>
    rcases s.externalEnd_cases with ⟨_, e⟩ | ⟨_, _, e⟩ | ⟨_, _, e⟩ <;> rw [State.move, e] <;>
      exact State.returnOutcome_latch _ _
  | pollNext mask value code k =>
    rcases s.pollNext_cases q n mask value code k with ⟨_, e⟩ | ⟨_, _, e⟩ | ⟨_, _, e⟩ <;> rw [State.move, e]
    exact State.returnOutcome_latch _ _
  | requireProgrammable =>
    rcases s.requireProgrammable_cases q n with ⟨_, e⟩ | ⟨_, e⟩ <;> rw [State.move, e]
    · rfl
    · exact State.returnOutcome_latch _ _
  | waitNext k =>
    have hcount : s.countWait.fsm.latch = s.fsm.latch := by rw [State.countWait_eq]
    rcases s.waitNext_cases q k with ⟨_, e⟩ | ⟨_, _, e⟩ | ⟨_, _, e⟩ <;> rw [State.move, e]
    · exact (State.returnOutcome_latch _ _).trans hcount
    · exact hcount
    · exact (State.returnOutcome_latch _ _).trans hcount
  | _ => rfl

@[simp] theorem State.settled_latch (s : State) : s.settled.fsm.latch = s.fsm.latch := by
  refine State.settled_induct (fun t => t.fsm.latch = s.fsm.latch) ?_ rfl
  intro a t ha hmv
  obtain ⟨q, n, _, ⟨c, _, rfl⟩ | ⟨d, _, _, rfl⟩⟩ := a.moved?_cases hmv
  · exact (a.move_latch q n c).trans ha
  · exact ha

/-- A request leaves no effect behind and takes none (R34). -/
theorem exec_request_latch {i : Instr} {s t : State} (hp : i.port ≠ .command) (h : exec i s = .next t) :
    t.fsm.latch = s.fsm.latch := by
  cases i with
  | program o u =>
    rcases execProgram_cases o u s with ⟨_, e⟩ | ⟨m, _, ⟨c, _, e⟩ | ⟨_, e⟩⟩ <;> rw [exec, e] at h <;> cases h
    · rfl
    · rfl
    · exact State.settled_latch _
  | reset | readIdCode | readStatusRegister => cases h; exact State.settled_latch _
  | transfer c tx rl =>
    rcases execTransfer_cases c tx rl s with ⟨_, e⟩ | ⟨_, e⟩ <;> rw [exec, e] at h <;> cases h
    · rfl
    · exact State.settled_latch _
  | waitUntil c m x b v =>
    rcases execWaitUntil_cases c m x b v s with ⟨_, e⟩ | ⟨_, e⟩ <;> rw [exec, e] at h <;> cases h
    · rfl
    · exact State.settled_latch _
  | _ => exact absurd rfl hp

theorem State.perform_effects {s t : State} {w : Wire} (h : s.perform w = .ok t) :
    t.device = s.device ∧ t.fsm.latch = s.fsm.latch := by
  cases State.perform_ok h with
  | readSt ht | readUc ht | readReturn ht | captureId ht | spiRead _ _ ht | quiet _ ht => rw [ht]; exact ⟨rfl, rfl⟩

/-- Away from latch clocks no effect waits. -/
theorem State.latchOk_elsewhere {s : State} (h : s.atLatch = false) : s.latchOk = true ↔ s.fsm.latch = none := by
  rcases hpc : s.pc with _ | ⟨q, n⟩
  · simp [State.latchOk, hpc]
  · have hne : ¬ microAt q n = some .latch := fun hm => Bool.false_ne_true (h.symm.trans ((State.atLatch_at hpc).mpr hm))
    simp [State.latchOk, hpc, hne]

/-- At a command's latch clocks its own effect waits. -/
theorem State.latchOk_at_latch {s : State} {q : Seq} {n : Nat} (hpc : s.pc = .at q n) (hm : microAt q n = some .latch)
    (h : s.latchOk = true) : ∃ c, cmdBefore s.cfg.op q n = some c ∧ s.fsm.latch = effectOf c := by
  simpa [State.latchOk, hpc, hm, Option.any_eq_true] using h

/-! Edit mode as the effects so far ask for it (R188, R191). -/

theorem editAfter_append : ∀ (es es' : List DeviceEffect) (on : Bool),
    editAfter on (es ++ es') = editAfter (editAfter on es) es'
  | [], _, _ => rfl
  | e :: es, es', on => by
    cases e <;> exact editAfter_append es es' _

theorem gatesKept_append : ∀ (es es' : List DeviceEffect) (on : Bool),
    gatesKept on (es ++ es') = (gatesKept on es && gatesKept (editAfter on es) es')
  | [], _, _ => rfl
  | e :: es, es', on => by
    have hedit : editAfter on (e :: es) = editAfter (editAfter on [e]) es := editAfter_append [e] es on
    rw [List.cons_append, gatesKept, gatesKept, gatesKept_append, hedit, Bool.and_assoc]

/-- A command that configuration edit mode gates. -/
def isGated (c : Cmd) : Bool := (effectOf c).any DeviceEffect.gated

theorem gatesKept_effect {c : Cmd} {on : Bool} (h : isGated c = true → on = true) : gatesKept on (effectOf c).toList = true := by
  revert h
  cases c <;> cases on <;> decide

theorem editAfter_effect {c : Cmd} {on : Bool} (h : c = .enable ∨ on = true ∧ c ≠ .disable) :
    editAfter on (effectOf c).toList = true := by
  rcases h with rfl | ⟨rfl, hne⟩
  · rfl
  · cases c with
    | disable => exact absurd rfl hne
    | _ => rfl

/-! The entries that need edit mode (R375). -/

/-- Edit mode is needed behind an entry where it is needed at it, or where Enable returns; a gated command's latch clocks
need it; and no command between Enable and there leaves it. -/
def Micro.editPlaced (q : Seq) (n : Nat) : Micro → Bool
  | .cmd c => (!isGated c || needsEdit q (n + 1)) && (!needsEdit q (n + 1) || needsEdit q n)
      && (!needsEdit q (n + 2) || c == .enable || needsEdit q (n + 1) && c != .disable)
  | .cmdByte _ => q.depth == 0 && !q.isHostLevel
  | .latch => true
  | .ctl c => ((c.targets q n).all fun e => (!needsEdit e.1 e.2 || needsEdit q n)
      && (!(c.calls && needsEdit q (n + 1)) || e.1 == .enable)) && (q != .enable || !c.calls && needsEdit q n)
  | _ => !needsEdit q (n + 1) || needsEdit q n

theorem rom_editPlaced (q : Seq) : romAll (fun n m => m.editPlaced q n) q = true := by
  cases q with
  | single b => rfl
  | _ => decide

theorem needsEdit_zero (q : Seq) : needsEdit q 0 = false := by
  cases q <;> rfl

/-- A sequence of a host operation is one itself, or stands below its caller. -/
theorem depth_ne_zero_of_chain {q : Seq} {fs : List Frame} (hchain : chainOk q fs = true) (hhost : q.isHostLevel = false) :
    q.depth ≠ 0 := by
  cases fs with
  | nil => exact absurd (hhost.symm.trans hchain) Bool.false_ne_true
  | cons f fs => exact Nat.ne_zero_of_lt (f.depth_lt (chainOk_cons.mp hchain).1)

/-- A command by its byte stands in no host operation: the sequence of `CMD op` is neither one nor called in one. -/
theorem ne_cmdByte {q : Seq} {fs : List Frame} {n : Nat} {b : Byte} (hchain : chainOk q fs = true) :
    microAt q n ≠ some (.cmdByte b) := by
  intro hm
  have h := romAll_at (rom_editPlaced q) hm
  simp only [Micro.editPlaced, Bool.and_eq_true, beq_iff_eq, Bool.not_eq_true'] at h
  obtain ⟨hdepth, hhost⟩ := h
  exact depth_ne_zero_of_chain hchain hhost hdepth

/-- Behind an entry that is no latch clocks and no move edit mode is needed only where it is needed at the entry. -/
theorem needsEdit_of_succ {q : Seq} {fs : List Frame} {n : Nat} {m : Micro} (hchain : chainOk q fs = true)
    (hm : microAt q n = some m) (hctl : ∀ c, m ≠ .ctl c) (hlatch : m ≠ .latch) (h : needsEdit q (n + 1) = true) :
    needsEdit q n = true := by
  have hplaced := romAll_at (rom_editPlaced q) hm
  cases m with
  | ctl c => exact absurd rfl (hctl c)
  | latch => exact absurd rfl hlatch
  | cmdByte b => exact absurd hm (ne_cmdByte hchain)
  | cmd c =>
    simp only [Micro.editPlaced, Bool.and_eq_true] at hplaced
    simpa [h] using hplaced.1.2
  | _ => simpa [Micro.editPlaced, h] using hplaced

theorem needsEdit_of_target {q q' : Seq} {n k : Nat} {c : Ctl} (hm : microAt q n = some (.ctl c))
    (hk : (q', k) ∈ c.targets q n) (h : needsEdit q' k = true) : needsEdit q n = true := by
  have hplaced := romAll_at (rom_editPlaced q) hm
  simp only [Micro.editPlaced, Bool.and_eq_true, List.all_eq_true] at hplaced
  simpa [h] using (hplaced.1 _ hk).1

/-- A call that returns to where edit mode is needed is of Enable. -/
theorem eq_enable_of_call {q q' : Seq} {n k : Nat} {c : Ctl} (hm : microAt q n = some (.ctl c)) (hc : c.calls = true)
    (hk : (q', k) ∈ c.targets q n) (h : needsEdit q (n + 1) = true) : q' = .enable := by
  have hplaced := romAll_at (rom_editPlaced q) hm
  simp only [Micro.editPlaced, Bool.and_eq_true, List.all_eq_true] at hplaced
  simpa [h, hc] using (hplaced.1 _ hk).2

/-- Within Enable no sequence is called, and every move stands behind its command. -/
theorem enable_moves {n : Nat} {c : Ctl} (hm : microAt .enable n = some (.ctl c)) :
    c.calls = false ∧ needsEdit .enable n = true := by
  have hplaced := romAll_at (rom_editPlaced .enable) hm
  simp only [Micro.editPlaced, Bool.and_eq_true, bne_self_eq_false, Bool.false_or, Bool.not_eq_true'] at hplaced
  exact hplaced.2

/-- Only Enable returns to where edit mode is needed. -/
theorem eq_enable_of_caller {f : Frame} (hneeds : needsEdit f.seq f.step = true) : ∀ {fs : List Frame} {q : Seq},
    chainOk q fs = true → f ∈ fs → q = .enable
  | g :: fs, q, h, hf => by
    obtain ⟨hg, hfs⟩ := chainOk_cons.mp h
    rcases List.mem_cons.mp hf with rfl | hf
    · rcases Frame.behindCall hg with ⟨n, c, hstep, hm, hc, hk⟩ | rfl
      · exact eq_enable_of_call hm hc hk (hstep ▸ hneeds)
      · cases hneeds
    · have henable := eq_enable_of_caller hneeds hfs hf
      rcases Frame.behindCall hg with ⟨n, c, _, hm, hc, _⟩ | rfl
      · rw [henable] at hm
        exact (Bool.false_ne_true ((enable_moves hm).1.symm.trans hc)).elim
      · cases henable

/-! The invariant. -/

/-- Edit mode is on where it is needed. -/
def State.EditOk (s : State) : Prop := ∀ q n, s.pc = .at q n → needsEdit q n = true → editAfter false s.device = true

/-- The gate's invariant with its parts named. -/
structure GateOk (s : State) : Prop where
  latch : s.latchOk = true
  gates : gatesKept false s.device = true
  edit : s.EditOk

theorem State.editOk_idle {s : State} (hpc : s.pc = .idle) : s.EditOk :=
  fun _ _ hp => nomatch hpc.symm.trans hp

theorem State.editOk_at {s : State} {q : Seq} {n : Nat} (hpc : s.pc = .at q n) :
    s.EditOk ↔ (!needsEdit q n || editAfter false s.device) = true := by
  cases h : needsEdit q n <;> simp [State.EditOk, hpc, h]

theorem State.gateOk_iff {s : State} : s.gateOk = true ↔ GateOk s := by
  rcases hpc : s.pc with _ | ⟨q, n⟩
  · simp only [State.gateOk, hpc, Bool.and_eq_true, and_true]
    exact ⟨fun ⟨hl, hg⟩ => ⟨hl, hg, State.editOk_idle hpc⟩, fun ⟨hl, hg, _⟩ => ⟨hl, hg⟩⟩
  · simp only [State.gateOk, hpc, Bool.and_eq_true, ← State.editOk_at hpc]
    exact ⟨fun ⟨⟨hl, hg⟩, he⟩ => ⟨hl, hg, he⟩, fun ⟨hl, hg, he⟩ => ⟨⟨hl, hg⟩, he⟩⟩

/-- A move leads to where edit mode is needed from where it is on. -/
theorem State.move_editOk {s : State} {q : Seq} {n : Nat} {c : Ctl} (hc : s.controlOk = true) (hpc : s.pc = .at q n)
    (hm : microAt q n = some (.ctl c)) (h : s.EditOk) : (s.move q n c).EditOk := by
  intro q' k hp hneeds
  rw [(s.move_unmoved q n c).device]
  refine h q n hpc ?_
  rcases s.move_to q n c with ⟨k', _, hk, hp', _⟩ | ⟨q'', _, _, hk, hp', _, _⟩ | ⟨f, fs, _, hf, hp', _⟩ | ⟨_, hp', _⟩ <;>
    cases hp'.symm.trans hp
  · exact needsEdit_of_target hm hk hneeds
  · exact needsEdit_of_target hm hk hneeds
  · obtain rfl := eq_enable_of_caller hneeds ((State.controlOk_at hpc).mp hc).2 (hf.mem List.mem_cons_self)
    exact (enable_moves hm).2

theorem State.moved?_editOk {s t : State} (hc : s.controlOk = true) (h : s.EditOk) (hmv : s.moved? = some t) :
    t.EditOk := by
  obtain ⟨q, n, hpc, ⟨c, hm, rfl⟩ | ⟨d, hm, _, rfl⟩⟩ := s.moved?_cases hmv
  · exact State.move_editOk hc hpc hm h
  · rintro _ _ ⟨⟩ hneeds
    exact h q n hpc (needsEdit_of_succ ((State.controlOk_at hpc).mp hc).2 hm nofun nofun hneeds)

theorem State.settled_editOk {s : State} (hc : s.controlOk = true) (h : s.EditOk) : s.settled.EditOk := by
  have hboth : s.settled.controlOk = true ∧ s.settled.EditOk :=
    State.settled_induct (fun t => t.controlOk = true ∧ t.EditOk)
      (fun _ _ ht hmv => ⟨State.moved?_controlOk ht.1 hmv, State.moved?_editOk ht.1 ht.2 hmv⟩) ⟨hc, h⟩
  exact hboth.2

/-- Setting the step pointer elsewhere than at latch clocks leads to where edit mode is needed from where it is on. -/
theorem Enters.editOk {s u : State} (hc : s.controlOk = true) (hs : s.atLatch = false) (hdevice : u.device = s.device)
    (h : s.EditOk) (he : Enters s u) : u.EditOk := by
  intro q' k hp hneeds
  rw [hdevice]
  cases he with
  | stays hpc => exact h q' k (hpc.symm.trans hp) hneeds
  | host _ _ _ hpc | spi _ _ _ hpc =>
    cases hpc.symm.trans hp
    cases (needsEdit_zero q').symm.trans hneeds
  | passes q n m hs' hm hctl hpc =>
    obtain ⟨rfl, rfl⟩ := Pc.at.inj (hpc.symm.trans hp)
    refine h q n hs' (needsEdit_of_succ ((State.controlOk_at hs').mp hc).2 hm hctl ?_ hneeds)
    rintro rfl
    exact Bool.false_ne_true (hs.symm.trans ((State.atLatch_at hs').mpr hm))

/-! Steps. -/

/-- A step that passes no command and no latch clocks, and leaves the effects. -/
theorem ComesToRest.gateOk {s t : State} (hc : s.controlOk = true) (hs : s.atLatch = false) (ht : t.atLatch = false)
    (hdevice : t.device = s.device) (hlatch : t.fsm.latch = s.fsm.latch) (h : GateOk s) (hrest : ComesToRest s t) :
    GateOk t where
  latch := (State.latchOk_elsewhere ht).mpr (hlatch.trans ((State.latchOk_elsewhere hs).mp h.latch))
  gates := by rw [hdevice]; exact h.gates
  edit := by
    obtain ⟨u, rfl, hu⟩ := hrest
    rw [State.settled_device] at hdevice
    exact State.settled_editOk (hu.controlOk hc) (hu.editOk hc hs hdevice h.edit)

/-- A command's IR shift: its own effect waits at its latch clocks. -/
theorem shiftCommand_gateOk {s : State} {q : Seq} {n : Nat} {c : Cmd} (hc : s.controlOk = true) (hpc : s.pc = .at q n)
    (hm : microAt q n = some (.cmd c)) (h : GateOk s) :
    GateOk (({ s with pc := .at q (n + 1) } : State).shiftCommand c (effectOf c)) where
  latch := by simp [State.latchOk, State.shiftCommand, latch_after_cmd hm, cmdBefore, hm]
  gates := h.gates
  edit := by
    rintro _ _ ⟨⟩ hneeds
    exact h.edit q n hpc (needsEdit_of_succ ((State.controlOk_at hpc).mp hc).2 hm nofun nofun hneeds)

/-- The command before its latch clocks is one by its name. -/
theorem cmd_of_cmdBefore {o : OpCodes} {q : Seq} {fs : List Frame} {n : Nat} {c : Cmd} (hchain : chainOk q fs = true)
    (hm : microAt q n = some .latch) (h : cmdBefore o q n = some c) : ∃ k, n = k + 1 ∧ microAt q k = some (.cmd c) := by
  have hpos : n ≠ 0 := by
    rintro rfl
    exact microAt_zero_ne_latch q hm
  refine ⟨n - 1, by omega, ?_⟩
  unfold cmdBefore at h
  split at h
  · rename_i c' hc'
    cases h
    exact hc'
  · rename_i b hb
    exact absurd hb (ne_cmdByte hchain)
  · cases h

/-- A command's latch clocks: a gated command takes effect in edit mode, and edit mode is on behind it where it is needed. -/
theorem latchCommand_gateOk {s : State} {q : Seq} {n : Nat} (hc : s.controlOk = true) (hpc : s.pc = .at q n)
    (hm : microAt q n = some .latch) (h : GateOk s) : GateOk s.latchCommand.advance := by
  obtain ⟨hlt, hchain⟩ := (State.controlOk_at hpc).mp hc
  obtain ⟨c, hbefore, hlatch⟩ := State.latchOk_at_latch hpc hm h.latch
  obtain ⟨k, rfl, hcmd⟩ := cmd_of_cmdBefore hchain hm hbefore
  have hplaced := romAll_at (rom_editPlaced q) hcmd
  simp only [Micro.editPlaced, Bool.and_eq_true, Bool.or_eq_true, Bool.not_eq_true', beq_iff_eq, bne_iff_ne] at hplaced
  obtain ⟨⟨hgated, _⟩, hbehind⟩ := hplaced
  have hnext : ({ s.latchCommand with pc := s.latchCommand.pc.next } : State).pc = .at q (k + 2) := congrArg Pc.next hpc
  have hcontrol : ({ s.latchCommand with pc := s.latchCommand.pc.next } : State).controlOk = true :=
    (State.controlOk_at hnext).mpr ⟨next_lt hm nofun, hchain⟩
  have hdevice : s.latchCommand.device = s.device ++ (effectOf c).toList := by rw [State.latchCommand_device, hlatch]
  have hon : needsEdit q (k + 1) = true → editAfter false s.device = true := h.edit q (k + 1) hpc
  refine ⟨?_, ?_, ?_⟩
  · have hat := State.settled_not_atLatch hcontrol (State.not_atLatch hnext (microAt_succ_ne_latch hm nofun nofun))
    exact (State.latchOk_elsewhere hat).mpr (State.settled_latch _)
  · rw [(State.advance_silent _).device, hdevice, gatesKept_append, h.gates, Bool.true_and]
    refine gatesKept_effect fun hg => hon ?_
    rcases hgated with hfree | hneeds
    · cases hfree.symm.trans hg
    · exact hneeds
  · refine State.settled_editOk hcontrol ?_
    rintro _ _ hp hneeds
    cases hnext.symm.trans hp
    rw [show ({ s.latchCommand with pc := s.latchCommand.pc.next } : State).device = s.device ++ (effectOf c).toList
      from hdevice, editAfter_append]
    refine editAfter_effect ?_
    rcases hbehind with (hfree | henable) | ⟨hneeded, hne⟩
    · cases hfree.symm.trans hneeds
    · exact .inl henable
    · exact .inr ⟨hon hneeded, hne⟩

theorem EngineTo.gateOk {s t : State} (hc : s.controlOk = true) (h : GateOk s) (he : EngineTo s t) : GateOk t := by
  have hrest := he.comesToRest hc
  cases he with
  | waits _ ht => rw [ht]; exact h
  | hostWrite w _ hpc _ _ ht =>
    have hp : t.pc = .idle := by rw [ht, (hostWrites_pc s.popHost w).1]; exact hpc
    have hlatch : t.fsm.latch = s.fsm.latch := by
      rw [ht]
      cases w with
      | setMcuImg im => cases im <;> rfl
      | _ => rfl
    have hdevice : t.device = s.device := by rw [ht, (State.hostWrites_silent _ w).device]; rfl
    exact hrest.gateOk hc (State.atLatch_idle hpc) (State.atLatch_idle hp) hdevice hlatch h
  | hostRequest _ _ i _ hpc _ hd ht =>
    have hport : i.port ≠ .command := by simp [decodeHost_port hd]
    have hidle : s.atLatch = false := State.atLatch_idle hpc
    exact hrest.gateOk hc hidle (hrest.not_atLatch hc hidle fun q n hpc' => nomatch hpc.symm.trans hpc')
      (exec_request_silent hport ht).device (exec_request_latch (s := s.popHost) hport ht) h
  | command q n c hpc hm ht =>
    rcases hm with hm | ⟨b, hm, _⟩
    · rw [ht]; exact shiftCommand_gateOk hc hpc hm h
    · exact absurd hm (ne_cmdByte ((State.controlOk_at hpc).mp hc).2)
  | latch q n hpc hm ht => rw [ht]; exact latchCommand_gateOk hc hpc hm h
  | wire q n w u hpc hm hu ht =>
    obtain ⟨hs, ht'⟩ := hrest.not_atLatch_at hc hpc hm nofun nofun nofun
    obtain ⟨hdevice, hlatch⟩ := State.perform_effects hu
    refine hrest.gateOk hc hs ht' ?_ ?_ h
    · rw [ht, u.advance_silent.device, hdevice]
    · rw [ht]; exact (State.settled_latch _).trans hlatch
  | spiRequest q n _ _ i _ hpc hm _ hd ht =>
    have hport : i.port ≠ .command := by simp [decodeSpi_port hd]
    obtain ⟨hs, ht'⟩ := hrest.not_atLatch_at hc hpc hm nofun nofun nofun
    exact hrest.gateOk hc hs ht' (exec_request_silent hport ht).device (exec_request_latch (s := s.popExt) hport ht) h
  | algorithmEnd q n ok _ hpc hm _ ht =>
    obtain ⟨hs, ht'⟩ := hrest.not_atLatch_at hc hpc hm nofun nofun nofun
    refine hrest.gateOk hc hs ht' ?_ ?_ h
    · rw [ht, (s.endAlgorithm_silent ok).device]
    · rw [ht]; exact State.settled_latch _
  | unsettled q n c hpc hm ht =>
    obtain ⟨hs, ht'⟩ := hrest.not_atLatch_at hc hpc hm nofun nofun nofun
    refine hrest.gateOk hc hs ht' ?_ ?_ h
    · rw [ht, s.settled_device]
    · rw [ht, s.settled_latch]

/-- Settles O53: the invariant with its parts named, kept by commands, by their latch clocks and by every other step. -/
theorem editGateKept : Obligations.EditGateKept := by
  intro s t hc hs h
  rw [State.gateOk_iff] at hs ⊢
  rcases step_next h with ⟨_, rfl⟩ | ⟨_, he⟩
  · exact ⟨hs.latch, hs.gates, hs.edit⟩
  · exact he.gateOk hc hs

end Sys2Proof.Machine
end

section
/-! PROOFS. The frequency of the two flash paths: each sets its own in its first step, no other step sets any, and the clocked
waits stand within ProgramFlash (R178, R270, R290, R291, R402). -/

namespace Sys2Proof.Machine

open Sys2Proof.Claims

/-! Where the frequency is set, and where it counts (R33). -/

/-- The frequency is set in the first step of a sequence that nothing calls. -/
def Micro.freqPlaced (q : Seq) (n : Nat) : Micro → Bool
  | .op (.setFreq _) => n == 0 && q.depth == 0
  | _ => true

theorem rom_freqPlaced (q : Seq) : romAll (fun n m => m.freqPlaced q n) q = true := by
  cases q with
  | single b => rfl
  | _ => decide

/-- A sequence of depth 0 has no caller. -/
theorem callers_eq_nil {q : Seq} {fs : List Frame} (hchain : chainOk q fs = true) (hq : q.depth = 0) : fs = [] :=
  List.length_eq_zero_iff.mp (Nat.le_zero.mp (hq ▸ length_le_depth hchain))

/-- The frequency is set at the start of the host operation in progress. -/
theorem root_of_setFreq {s : State} {q : Seq} {n : Nat} {hz : Nat} (hc : s.controlOk = true) (hpc : s.pc = .at q n)
    (hm : microAt q n = some (.op (.setFreq hz))) : n = 0 ∧ s.root = some q := by
  have hplaced := romAll_at (rom_freqPlaced q) hm
  simp only [Micro.freqPlaced, Bool.and_eq_true, beq_iff_eq] at hplaced
  obtain ⟨hn, hdepth⟩ := hplaced
  rw [State.root_at hpc, callers_eq_nil ((State.controlOk_at hpc).mp hc).2 hdepth]
  exact ⟨hn, rfl⟩

/-- The sequences of ProgramFlash that wait by the clock, and those that call them. -/
def Seq.waitsInFlash : Seq → Bool
  | .programFlash | .eraseFlash | .eraseAttempt | .writeImage | .writePage => true
  | _ => false

theorem closedUpwards_waitsInFlash : ClosedUpwards Seq.waitsInFlash where
  calls q := by
    cases q with
    | single b => rfl
    | _ => decide
  requests q hq h := by
    cases q with
    | spiTransfer | spiWait => cases h
    | _ => cases hq

/-- A clocked wait stands in one of those sequences, and is not ProgramFlash's own. -/
def Micro.waitPlaced (q : Seq) : Micro → Bool
  | .op (.clkFor _) => q.waitsInFlash && q != .programFlash
  | _ => true

theorem rom_waitPlaced (q : Seq) : romAll (fun _ m => m.waitPlaced q) q = true := by
  cases q with
  | single b => rfl
  | _ => decide

/-- Every clocked wait is part of ProgramFlash. -/
theorem root_of_clkFor {s : State} {q : Seq} {n : Nat} {d : Delay} (hc : s.controlOk = true) (hpc : s.pc = .at q n)
    (hm : microAt q n = some (.op (.clkFor d))) : s.root = some .programFlash ∧ q ≠ .programFlash := by
  have hplaced := romAll_at (rom_waitPlaced q) hm
  simp only [Micro.waitPlaced, Bool.and_eq_true, bne_iff_ne] at hplaced
  obtain ⟨hwaits, hne⟩ := hplaced
  have hchain := ((State.controlOk_at hpc).mp hc).2
  have hroot := closedUpwards_waitsInFlash.root hchain hwaits
  have hhost := chainOk_root hchain
  refine ⟨(State.root_at hpc).trans (congrArg some ?_), hne⟩
  cases hr : rootOf q s.callers with
  | programFlash => rfl
  | eraseFlash | eraseAttempt | writeImage | writePage => rw [hr] at hhost; cases hhost
  | _ => rw [hr] at hroot; cases hroot

/-! The frequency through a step. -/

theorem afterOps_issued : ∀ (ops : List TOp) (x : Transport), (afterOps x ops).issued = x.issued ++ ops
  | [], x => (List.append_nil x.issued).symm
  | op :: ops, x => (afterOps_issued ops (afterOp x op)).trans (List.append_assoc x.issued [op] ops)

/-- Only the operation that sets the frequency changes it (R170). -/
theorem State.perform_freq {s u : State} {w : Wire} (hw : ∀ hz, w ≠ .setFreq hz) (h : s.perform w = .ok u) :
    u.xport.freq = s.xport.freq := by
  cases w with
  | setFreq hz => exact absurd rfl (hw hz)
  | chunkShift =>
    rcases s.chunkShift_cases with ⟨_, _, _, e⟩ | ⟨_, _, e⟩ <;> rw [State.perform, e] at h <;> cases h
    rfl
  | clkFor d =>
    cases h
    rw [State.clockFor_eq, State.onXport_xport]
    split <;> rfl
  | bscanHigh =>
    cases h
    unfold State.clockHigh
    split <;> rfl
  | encBShift =>
    cases h
    unfold State.passthroughShift
    split <;> rfl
  | _ => cases h; rfl

/-- A step that does not stand where the frequency is set leaves it. -/
theorem EngineTo.freq {s t : State} (hne : ∀ q n hz, s.pc = .at q n → microAt q n ≠ some (.op (.setFreq hz)))
    (h : EngineTo s t) : t.xport.freq = s.xport.freq := by
  cases h with
  | waits _ ht => rw [ht]
  | hostWrite w _ _ _ _ ht => rw [ht, (State.hostWrites_silent _ w).xport]; rfl
  | hostRequest _ _ _ _ _ _ hd ht =>
    exact congrArg Transport.freq (exec_request_silent (by simp [decodeHost_port hd]) ht).xport
  | command q n c _ _ ht => rw [ht]; rfl
  | latch q n _ _ ht => rw [ht, s.latchCommand.advance_silent.xport]; rfl
  | wire q n w u hpc hm hu ht =>
    rw [ht, u.advance_silent.xport]
    refine State.perform_freq ?_ hu
    rintro hz rfl
    exact hne q n hz hpc hm
  | spiRequest _ _ _ _ _ _ _ _ _ hd ht =>
    exact congrArg Transport.freq (exec_request_silent (by simp [decodeSpi_port hd]) ht).xport
  | algorithmEnd q n ok _ _ _ _ ht => rw [ht, (s.endAlgorithm_silent ok).xport]
  | unsettled q n c _ _ ht => rw [ht, s.settled_xport]

/-- The operation that sets the frequency. -/
theorem EngineTo.freq_set {s t : State} {q : Seq} {n : Nat} {hz : Nat} (hpc : s.pc = .at q n)
    (hm : microAt q n = some (.op (.setFreq hz))) (h : EngineTo s t) : t.xport.freq = hz := by
  cases h with
  | wire q' n' w u hpc' hm' hu ht =>
    cases hpc.symm.trans hpc'
    cases hm.symm.trans hm'
    cases hu
    rw [ht, (State.advance_silent _).xport]
    rfl
  | waits hF => simp [State.fetch, hpc, hm] at hF
  | hostWrite _ _ hpc' | hostRequest _ _ _ _ hpc' => cases hpc.symm.trans hpc'
  | command _ _ _ hpc' hm' =>
    cases hpc.symm.trans hpc'
    rcases hm' with hm' | ⟨_, hm', _⟩ <;> cases hm.symm.trans hm'
  | latch _ _ hpc' hm' | spiRequest _ _ _ _ _ _ hpc' hm' | algorithmEnd _ _ _ _ hpc' hm' | unsettled _ _ _ hpc' hm' =>
    cases hpc.symm.trans hpc'
    cases hm.symm.trans hm'

/-! The invariant of one path. -/

/-- Behind its first step the path runs at its frequency, the sequences it calls included. -/
def State.RunsAt (s : State) (p : Seq) (hz : Nat) : Prop := s.root = some p → s.pc = .at p 0 ∨ s.xport.freq = hz

theorem State.freqOk_iff {s : State} : s.freqOk = true ↔
    s.RunsAt .programFlash flashProgClockHz ∧ s.RunsAt .externalFlash extFlashClockHz := by
  have himp : ∀ {a b c : Prop}, (¬ a ∨ b) ∨ c ↔ (a → b ∨ c) := by tauto
  simp only [State.freqOk, Bool.and_eq_true, Bool.or_eq_true, bne_iff_ne, beq_iff_eq, ne_eq, himp, State.RunsAt]

section

variable {s t : State} {p : Seq} {hz : Nat} (hfirst : microAt p 0 = some (.op (.setFreq hz)))
include hfirst

/-- A host operation that a step starts is at its first step. -/
theorem ComesToRest.runsAt_of_idle (hidle : s.pc = .idle) (h : ComesToRest s t) : t.RunsAt p hz := by
  obtain ⟨u, rfl, hu⟩ := h
  intro hroot
  have hsame : u.root = some p := (u.settled_root.resolve_right (by rw [hroot]; nofun)).symm.trans hroot
  cases hu with
  | stays hpc => cases (State.root_idle (hpc.trans hidle)).symm.trans hsame
  | host q _ _ hpc hcs =>
    rw [State.root_at hpc, hcs] at hsame
    cases hsame
    rw [State.settled_of_rest (State.moved?_op hpc hfirst nofun)]
    exact .inl hpc
  | spi _ _ hpc | passes _ _ _ hpc => cases hidle.symm.trans hpc

/-- The path's first step sets its frequency, and no other step any. -/
theorem step_runsAt (hc : s.controlOk = true) (hs : s.RunsAt p hz) (h : step s = .next t) : t.RunsAt p hz := by
  by_cases hidle : s.pc = .idle
  · rcases step_comesToRest hc h with rfl | hrest
    · exact hs
    · exact hrest.runsAt_of_idle hfirst hidle
  · intro hroot
    have hsame : s.root = some p := ((step_root hc hidle h).resolve_right (by rw [hroot]; nofun)).symm.trans hroot
    rcases step_next h with ⟨_, rfl⟩ | ⟨_, he⟩
    · exact hs hsame
    · by_cases hset : ∃ q n hz', s.pc = .at q n ∧ microAt q n = some (.op (.setFreq hz'))
      · obtain ⟨q, n, hz', hpc, hm⟩ := hset
        obtain ⟨rfl, hq⟩ := root_of_setFreq hc hpc hm
        cases hsame.symm.trans hq
        cases hfirst.symm.trans hm
        exact .inr (he.freq_set hpc hm)
      · push Not at hset
        rcases hs hsame with hpc | hfreq
        · exact absurd hfirst (hset p 0 hz hpc)
        · exact .inr ((he.freq hset).trans hfreq)

end

/-- Settles O55: the invariant of each path, and the clocked waits, which are ProgramFlash's. -/
theorem frequencyKept : Obligations.FrequencyKept := by
  refine ⟨fun s t hc hs h => ?_, fun s q n d hturn hc hs hpc hm => ?_⟩
  · obtain ⟨hflash, hext⟩ := State.freqOk_iff.mp hs
    exact State.freqOk_iff.mpr ⟨step_runsAt rfl hc hflash h, step_runsAt rfl hc hext h⟩
  · obtain ⟨hroot, hne⟩ := root_of_clkFor hc hpc hm
    have hfreq : s.xport.freq = 2500000 := by
      rcases (State.freqOk_iff.mp hs).1 hroot with hfirst | hfreq
      · cases hpc.symm.trans hfirst
        exact absurd rfl hne
      · exact hfreq
    refine ⟨_, step_of_clkFor hturn hpc hm, ?_⟩
    rw [State.settled_xport, hfreq]
    exact afterOps_issued _ _

end Sys2Proof.Machine
end

section
/-! PROOFS. Construction: the command of its identity read, the capture that sets ID, the variant and EXT_SEL, and the machine
at reset behind it (R54, R200, R391). -/

namespace Sys2Proof.Machine

open Sys2Proof.Claims

/-- The machine at the capture of construction's identity read, its command done. -/
def constructing (p : Params) (x : Transport) : State :=
  { State.constructed p 0 (afterOps x (cmdOps p.op .readIdcode)) with pc := .at .construct 2 }

/-- Construction's command (R391). -/
theorem engineReaches_constructing (p : Params) (x : Transport) :
    EngineReaches { State.constructed p 0 x with device := [], pc := .at .construct 0 } (constructing p x) := by
  have hcommand := engineReaches_command (s := { State.constructed p 0 x with device := [], pc := .at .construct 0 })
    (c := .readIdcode) rfl rfl
  rw [State.settled_of_rest (State.moved?_op (w := .captureId) rfl rfl nofun)] at hcommand
  exact hcommand

/-- Behind the capture the machine is IDLE. -/
theorem advance_captureId {s : State} (hpc : s.pc = .at .construct 2) :
    s.captureId.advance = { s.captureId with pc := .idle, callers := [] } := by
  have hnext : ({ s.captureId with pc := s.captureId.pc.next } : State).pc = .at .construct 3 := congrArg Pc.next hpc
  rw [State.advance, State.settled_ctl hnext (c := .leave) rfl]
  exact State.settled_of_rest (State.moved?_idle rfl)

/-- The capture's step: from the machine's last state before it is constructed, with any part of the queue performed. -/
theorem engineStep_constructing (p : Params) (x : Transport) (k : Nat) :
    engineStep ((constructing p x).withPerformed k) = .next (State.constructed p (leWordOf (x.answer 32))
      ((afterOps x (cmdOps p.op .readIdcode)).capture readProbe 32 .runTestIdle)) := by
  have hstep := engineStep_wire (s := (constructing p x).withPerformed k) (w := .captureId) rfl rfl rfl
  rw [advance_captureId rfl] at hstep
  exact hstep

theorem engineReaches_constructed (p : Params) (x : Transport) :
    EngineReaches { State.constructed p 0 x with device := [], pc := .at .construct 0 }
      (State.constructed p (leWordOf (x.answer 32)) (afterOps x (readOps p.op .readIdcode))) := by
  refine (engineReaches_constructing p x).trans (EngineReaches.step_withPerformed
    (p := ((afterOps x (cmdOps p.op .readIdcode)).capture readProbe 32 .runTestIdle).performed) ?_)
  exact engineStep_constructing p x (constructing p x).xport.performed

/-- From the machine before construction the capture, a barrier, leaves the machine at reset. -/
theorem run_unconstructed : ∃ k, runSteps k State.unconstructed = .next State.reset := by
  obtain ⟨k, p, hcommand⟩ := engineReaches_constructing Config.params (Transport.fresh Config.params)
  obtain ⟨k1, p1, hrun⟩ := exists_run_of_engineSteps hcommand
  obtain ⟨k2, p2, hturn, hmoves⟩ :=
    engine_turn ((constructing Config.params (Transport.fresh Config.params)).withPerformed p1)
  have hcapture : step ((constructing Config.params (Transport.fresh Config.params)).withPerformed p2) =
      .next State.reset :=
    (step_of_engine hmoves).trans (engineStep_constructing Config.params (Transport.fresh Config.params) p2)
  refine ⟨k1 + (k2 + 1), ?_⟩
  exact (stepsOf_add (k2 + 1) hrun).trans ((stepsOf_add 1 hturn).trans (runSteps_succ hcapture 0))

/-- Settles O45: the run of construction, the same from before reset, and the example of R391. -/
theorem construction : Obligations.Construction := by
  refine ⟨fun p x => (engineReaches_constructed p x).reaches fun a => ⟨rfl, rfl⟩, run_unconstructed, fun p x rs h => ?_⟩
  have hanswer : x.answer 32 = [0x1B, 0x28, 0x00, 0x09] := Transport.answer_scripted (k := 4) h rfl
  refine ⟨by rw [hanswer]; rfl, ?_⟩
  rw [Variant.nBursts, show (resolve p 0x0900281B).extendedErase = true from resolve_idLongVariant p]
  rfl

end Sys2Proof.Machine
end

section
/-! PROOFS. ProgramFlash's opening: its frequency, Disable, the TAP reset, the two status reads, and EraseSRAM where the second
shows VALID, up to the first attempt of the flash erase (R250, R256, R270, R271, R403). -/

namespace Sys2Proof.Machine

open Sys2Proof.Claims

/-- The operations of the opening up to the precondition's status read, Disable's poll matched at its first read. -/
def flashDisabledOps (o : OpCodes) : List TOp := [.freq 2500000] ++ disableOps o ++ [.state .testLogicReset]

/-- The operations of the opening up to EraseFlash's own status read, that included. -/
def flashOpeningOps (o : OpCodes) : List TOp := flashDisabledOps o ++ readOps o .readStatus ++ readOps o .readStatus

/-- The commands of the opening. -/
def flashOpeningCmds : List Cmd := [.disable, .noop, .readStatus, .readStatus, .readStatus]

/-- ProgramFlash within its call of EraseFlash, no outcome taken yet. -/
def State.inEraseFlash (s : State) : State :=
  { s with callers := [⟨.programFlash, 9, true⟩], fsm := { s.fsm with acc := .ok } }

/-- The frequency, Disable and the TAP reset, up to the precondition's status read (R270, R402). -/
theorem engineReaches_flashDisabled {s : State} {d : Word} {rs : List (List Byte)} (hpc : s.pc = .at .programFlash 0)
    (hmax : 1 ≤ s.cfg.pollMax.toNat) (hreplies : s.xport.replies = leBytes d :: rs) (hd : d &&& 0x80 = 0) :
    EngineReaches s ((s.configured (flashDisabledOps s.cfg.op) [.disable, .noop, .readStatus] d).goto
      .programFlash 3).settled := by
  have hfreq := engineReaches_op (s := s) (q := .programFlash) (n := 0) rfl (issues_setFreq _ flashProgClockHz)
  rw [State.goto_of_pc hpc, State.settled_of_rest (State.moved?_op (w := .setFreq flashProgClockHz) hpc rfl nofun)] at hfreq
  have hdisable := engineReaches_callDisable (s := s.issues [.freq flashProgClockHz]) (q := .programFlash) (n := 1)
    rfl hreplies hd hmax
  rw [State.issues_configured] at hdisable
  exact (hfreq.trans hdisable).trans (engineReaches_configured_op rfl (issues_setTap _ .testLogicReset))

/-- The precondition passed, and the erase's own status read (R250, R271). -/
theorem engineReaches_flashOpened {s : State} {d p v : Word} {rs : List (List Byte)} (hpc : s.pc = .at .programFlash 0)
    (hcallers : s.callers = []) (hmax : 1 ≤ s.cfg.pollMax.toNat) (hd : d &&& 0x80 = 0)
    (hp : p &&& (0x00001000 ||| 0x00010000) ≠ 0)
    (hreplies : s.xport.replies = leBytes d :: leBytes p :: leBytes v :: rs) :
    EngineReaches s ((s.inEraseFlash.configured (flashOpeningOps s.cfg.op) flashOpeningCmds v).goto .eraseFlash 3).settled := by
  have hreplies2 : s.xport.replies.tail = leBytes p :: leBytes v :: rs := congrArg List.tail hreplies
  have hreplies3 : s.xport.replies.tail.tail = leBytes v :: rs := congrArg List.tail hreplies2
  have hread := (engineReaches_flashDisabled hpc hmax hreplies hd).trans
    (engineReaches_configured_statusRead (q := .programFlash) (n := 3) ⟨rfl, rfl, rfl⟩ hreplies2)
  rw [State.settled_programmable rfl ((programmable_iff p).mpr hp)] at hread
  have herase := engineReaches_configured_statusRead (s := s.inEraseFlash)
    (ops := flashDisabledOps s.cfg.op ++ readOps s.cfg.op .readStatus)
    (cs := [Cmd.disable, .noop, .readStatus] ++ [.readStatus]) (v := p) (q := .eraseFlash) (n := 0) ⟨rfl, rfl, rfl⟩ hreplies3
  rw [State.settled_of_rest (State.moved?_cmd (c := .readStatus) rfl rfl)] at herase
  rw [State.inEraseFlash, ← hcallers] at herase ⊢
  exact hread.trans herase

/-- The first attempt is counted from 0 (R250). -/
theorem State.settled_firstAttempt (s : State) : (s.goto .eraseFlash 5).settled =
    (({ s with attempt := 0 } : State).callSeq .eraseFlash 7 true .eraseAttempt).settled := by
  rw [State.settled_ctl rfl (c := .attemptInit) rfl]
  exact State.settled_call (s := { s with attempt := 0 }) (q := .eraseFlash) (n := 6) rfl

/-- The pre-erase is passed over where VALID is clear in the status read last (R250). -/
theorem State.settled_preEraseSkipped {s : State} {v : Word} (hst : s.st = some v) (hclear : v.getLsbD 12 = false) :
    (s.goto .eraseFlash 3).settled = (s.goto .eraseFlash 5).settled := by
  refine State.settled_branch_taken (c := .validClear) rfl ?_
  rw [State.holds, hst]
  exact congrArg (!·) hclear

theorem State.settled_preEraseNext {s : State} {v : Word} (hst : s.st = some v) (hvalid : v.getLsbD 12 = true) :
    (s.goto .eraseFlash 3).settled = (s.goto .eraseFlash 4).settled := by
  refine State.settled_branch_passed (c := .validClear) rfl ?_
  rw [State.holds, hst]
  exact congrArg (!·) hvalid

/-- Settles O36: the opening, then the branch on VALID, with EraseSRAM where it is set. -/
theorem programFlashOpening : Obligations.ProgramFlashOpening := by
  rintro s u d p v rest hpc hcallers hmax hd hp rfl ops rfl
  refine ⟨fun hclear hreplies => ?_, fun a b c w hvalid ha hb hc hreplies => ?_⟩
  · have hopened := engineReaches_flashOpened hpc hcallers hmax hd hp hreplies
    rw [State.settled_preEraseSkipped rfl hclear, State.settled_firstAttempt]
      at hopened
    exact hopened.reaches (imagesKept_settled fun a => ⟨rfl, rfl⟩)
  · have hopened := engineReaches_flashOpened hpc hcallers hmax hd hp hreplies
    rw [State.settled_preEraseNext rfl hvalid] at hopened
    have herase := engineReaches_callEraseSram
      (s := s.inEraseFlash.configured (flashOpeningOps s.cfg.op) flashOpeningCmds v) (q := .eraseFlash) (n := 4) (rest := rest)
      rfl hmax (congrArg (List.tail ∘ List.tail ∘ List.tail) hreplies) ha hb hc
    rw [State.settled_firstAttempt, State.sramErased, State.configured_configured] at herase
    exact (hopened.trans herase).reaches (imagesKept_settled fun a => ⟨rfl, rfl⟩)

end Sys2Proof.Machine
end

section
/-! PROOFS. The volatile path: EraseSRAM, LoadSRAM with its stream, and RESULT the worst of the two returns (R226, R234, R340,
R368, R369). -/

namespace Sys2Proof.Machine

open Sys2Proof.Claims

/-! LoadSRAM (R234). -/

/-- What the stream's loop leaves of its counters. -/
def State.streamed (s : State) : State :=
  { s with chunk := BitVec.ofNat 32 (chunks s - 1), fsm := { s.fsm with index := chunks s - 1 } }

theorem issues_checksumShift (s : State) : Issues s .checksumShift
    (.dr 32 [s.bs.checksum.extractLsb' 0 8, s.bs.checksum.extractLsb' 8 8, 0, 0] .runTestIdle false) := by
  refine ⟨nofun, s.xport.performed, ?_⟩
  rw [← checksumWord_eq]
  rfl

/-! The stream and the checksum word read nothing back (R104, R82). -/

@[simp] theorem countP_streamOps (s : State) : (streamOps s).countP TOp.readsBack = 0 := by
  rw [List.countP_eq_zero]
  intro op hop
  obtain ⟨j, _, rfl⟩ := List.mem_map.mp hop
  exact Bool.false_ne_true

@[simp] theorem countP_checksumOps (s : State) : (checksumOps s).countP TOp.readsBack = 0 := by
  unfold checksumOps
  split <;> rfl

section

variable {s : State} {ops : List TOp} {cs : List Cmd} {v : Word}

/-- The stream's chunks, one behind the other. -/
theorem engineReaches_configured_stream (hpos : 0 < chunks s) : EngineReaches ((s.configured ops cs v).goto .loadSram 5).settled
    ((s.streamed.configured (ops ++ streamOps s) cs v).goto .loadSram 8).settled := by
  obtain ⟨t, ht⟩ : ∃ t, t = (s.configured ops cs v).goto .loadSram 5 := ⟨_, rfl⟩
  have hchunks : chunks t = chunks s := by rw [ht]; rfl
  have hrun : engineSteps (chunks t - 1 + 1) (t.beforeChunk 0) = .next t.behindStream := engineSteps_stream (by omega)
  have hbehind : t.behindStream = (s.streamed.configured (ops ++ streamOps s) cs v).goto .loadSram 8 := by
    rw [ht, ← State.configured_issues]
    rfl
  rw [← ht, State.settled_streamStart (by rw [ht]; rfl), State.settled_of_rest (State.moved?_cmd (c := .finalize1) rfl rfl),
    ← hbehind]
  exact ⟨_, t.behindStream.xport.performed, hrun⟩

/-- The checksum word, where the variant knows the algorithm. -/
theorem engineReaches_configured_checksum : EngineReaches ((s.configured ops cs v).goto .loadSram 10).settled
    ((s.configured (ops ++ checksumOps s) cs v).goto .loadSram 12).settled := by
  rcases hknown : s.var.checksumKnown with _ | _
  · have hskip : ((s.configured ops cs v).goto .loadSram 10).settled = ((s.configured ops cs v).goto .loadSram 12).settled :=
      State.settled_branch_taken (c := .checksumUnknown) rfl (congrArg (!·) hknown)
    rw [hskip, checksumOps, hknown, if_neg Bool.false_ne_true, List.append_nil]
    exact .refl _
  · have hnext : ((s.configured ops cs v).goto .loadSram 10).settled = ((s.configured ops cs v).goto .loadSram 11).settled :=
      State.settled_branch_passed (c := .checksumUnknown) (k := 12) rfl (congrArg (!·) hknown)
    rw [hnext, checksumOps, hknown, if_pos rfl]
    exact engineReaches_configured_op rfl (issues_checksumShift _)

end

/-- LoadSRAM up to its return by DONE: the opening, the stream, the checksum word between the two finalize commands; Disable;
the last status read. -/
theorem engineReaches_loadSram {s : State} {a b w : Word} {rest : List (List Byte)} (hpc : s.pc = .at .loadSram 0)
    (hpos : 0 < chunks s) (hmax : 1 ≤ s.cfg.pollMax.toNat)
    (hreplies : s.xport.replies = [leBytes a, leBytes b, leBytes w] ++ rest) (ha : a &&& 0x80 = 0x80) (hb : b &&& 0x80 = 0) :
    EngineReaches s.settled ((s.streamed.configured (loadSramOps s) loadSramCmds w).goto .loadSram 18).settled := by
  have henable := engineReaches_callEnable (q := .loadSram) (n := 0) rfl hreplies ha hmax
  rw [State.goto_of_pc hpc] at henable
  have hopened := (henable.trans (engineReaches_configured_command (c := .initAddr) rfl)).trans
    (engineReaches_configured_command (c := .xferWrite) rfl)
  have hstreamed := hopened.trans (engineReaches_configured_stream hpos)
  have hchecksum := (hstreamed.trans (engineReaches_configured_command (c := .finalize1) rfl)).trans
    engineReaches_configured_checksum
  have hfinal := hchecksum.trans (engineReaches_configured_command (c := .finalize2) rfl)
  have hdisable := hfinal.trans (engineReaches_configured_callDisable (w := b) (rs := leBytes w :: rest) rfl
    (by simp [afterOps_replies, State.streamed, hreplies]) hb hmax)
  exact hdisable.trans (engineReaches_configured_statusRead (w := w) (rs := rest) ⟨rfl, rfl, rfl⟩
    (by simp [afterOps_replies, State.streamed, hreplies]))

theorem loadSramResult_eq (w : Word) :
    loadSramResult w = if flagSet w .done = true then .ok else .advisory .loadNotDone w := rfl

/-- LoadSRAM's stream is of the image, the checksum and the parameters alone. -/
theorem loadSramOps_congr {s t : State} (hcfg : t.cfg = s.cfg) (hvar : t.var = s.var) (hbs : t.bs = s.bs) :
    loadSramOps t = loadSramOps s := by
  have hchunk : ∀ j, chunkBytesOf t j = chunkBytesOf s j := fun j => by simp only [chunkBytesOf, hcfg, hbs]
  simp only [loadSramOps, streamOps, chunks, hchunk, checksumOps, hcfg, hvar, hbs]
  rfl

/-- What LoadSRAM leaves for its caller: the outcome bound, an Advisory logged. -/
def State.sramLoaded (s : State) (w : Word) : State :=
  { s.streamed.configured (loadSramOps s) loadSramCmds w with
      log := s.log ++ advisoryLog (loadSramResult w),
      fsm := { s.streamed.fsm with ret := loadSramResult w, latch := none } }

/-- A call of LoadSRAM, each poll matched at its first read (R234). -/
theorem engineReaches_callLoadSram {s : State} {q : Seq} {n : Nat} {pass : Bool} {a b w : Word} {rest : List (List Byte)}
    (hcall : microAt q n = some (.ctl (.call .loadSram pass))) (hpos : 0 < chunks s) (hmax : 1 ≤ s.cfg.pollMax.toNat)
    (hreplies : s.xport.replies = [leBytes a, leBytes b, leBytes w] ++ rest) (ha : a &&& 0x80 = 0x80) (hb : b &&& 0x80 = 0) :
    EngineReaches (s.goto q n).settled ((s.sramLoaded w).goto q (n + 1)).settled := by
  obtain ⟨t, ht⟩ : ∃ t, t = s.callSeq q (n + 1) pass .loadSram := ⟨_, rfl⟩
  have hops : loadSramOps t = loadSramOps s := by rw [ht]; exact loadSramOps_congr rfl rfl rfl
  have hrun := engineReaches_loadSram (s := t) (by rw [ht]; rfl) (by rwa [ht]) (by rwa [ht]) (by rwa [ht]) ha hb
  have hreturn := State.settled_retDone (s := t.streamed.configured (loadSramOps s) loadSramCmds w) (q := .loadSram) (n := 18)
    (f := ⟨q, n + 1, pass⟩) (fs := s.callers) rfl rfl (by rw [ht]; rfl) (loadSramResult_eq w)
  rw [hops, hreturn, ht] at hrun
  rw [State.settled_call hcall]
  exact hrun

/-! The path (R340). -/

/-- The erase, its outcome the first that is taken. -/
theorem engineReaches_volatileErased {s : State} {a b c w : Word} {rest : List (List Byte)}
    (hpc : s.pc = .at .programVolatile 0) (hmax : 1 ≤ s.cfg.pollMax.toNat)
    (hreplies : s.xport.replies = [leBytes a, leBytes b, leBytes c, leBytes w] ++ rest)
    (ha : a &&& 0x80 = 0x80) (hb : b &&& 0x20 = 0x20) (hc : c &&& 0x80 = 0) :
    EngineReaches s.settled ((s.eraseTaken w).goto .programVolatile 3).settled := by
  obtain ⟨t, ht⟩ : ∃ t, t = ({ s with fsm := { s.fsm with acc := .ok } } : State) := ⟨_, rfl⟩
  have haccInit : s.settled = (t.goto .programVolatile 1).settled := by
    rw [State.settled_ctl hpc (c := .accInit) rfl, ht]
    rfl
  have herase := engineReaches_callEraseSram (s := t) (q := .programVolatile) (n := 1) rfl (by rwa [ht]) (by rwa [ht])
    ha hb hc
  have htaken : (t.sramErased w).accumulated = s.eraseTaken w := by
    simp only [ht, State.accumulated, State.sramErased, State.eraseTaken, State.configured, State.ran, ok_worst]
  have haccWorst : ((t.sramErased w).goto .programVolatile 2).settled =
      ((s.eraseTaken w).goto .programVolatile 3).settled := by
    rw [← htaken]
    exact State.settled_ctl rfl (c := .accWorst) rfl
  rwa [← haccInit, haccWorst] at herase

/-- The path's end: the load's outcome taken, the worst of both in RESULT (R369). -/
theorem State.settled_volatileEnd {s : State} (hcallers : s.callers = []) :
    (s.goto .programVolatile 4).settled = s.accumulated.finish s.accumulated.fsm.acc := by
  have haccWorst : (s.goto .programVolatile 4).settled = (s.accumulated.goto .programVolatile 5).settled :=
    State.settled_ctl rfl (c := .accWorst) rfl
  have hunwind : unwind s.accumulated.fsm.acc s.callers = [] := by rw [hcallers]; rfl
  rw [haccWorst, State.settled_ctl rfl (c := .retAcc) rfl]
  exact (congrArg State.settled (State.returnOutcome_finish (s := s.accumulated.goto .programVolatile 5) hunwind)).trans
    (State.settled_of_rest (State.moved?_idle rfl))

/-- What both sequences leave, their outcomes taken into the worst. -/
def State.bothLoaded (s : State) (aw bw : Word) : State :=
  { s with xport := afterOps s.xport (eraseSramOps s.cfg.op ++ loadSramOps s),
           device := s.device ++ effects (eraseSramCmds ++ loadSramCmds), st := some bw, pollCnt := 1,
           chunk := BitVec.ofNat 32 (chunks s - 1),
           log := s.log ++ advisoryLog (eraseSramResult aw) ++ advisoryLog (loadSramResult bw),
           fsm := { s.fsm with acc := worst (eraseSramResult aw) (loadSramResult bw), ret := loadSramResult bw,
                               index := chunks s - 1, latch := none } }

theorem State.eraseTaken_sramLoaded (s : State) (aw bw : Word) :
    ((s.eraseTaken aw).sramLoaded bw).accumulated = s.bothLoaded aw bw := by
  have hops : loadSramOps (s.eraseTaken aw) = loadSramOps s := loadSramOps_congr rfl rfl rfl
  have hchunks : chunks (s.eraseTaken aw) = chunks s := rfl
  simp only [State.accumulated, State.sramLoaded, State.streamed, hops, hchunks, State.configured, State.ran]
  simp only [State.eraseTaken, State.sramErased, State.configured, State.ran, State.bothLoaded, afterOps_append,
    effects_append, List.append_assoc]

/-- The load, its outcome taken into the worst, which goes to RESULT. -/
theorem engineReaches_volatileLoaded {s : State} {a b w : Word} {rest : List (List Byte)} (hcallers : s.callers = [])
    (hpos : 0 < chunks s) (hmax : 1 ≤ s.cfg.pollMax.toNat)
    (hreplies : s.xport.replies = [leBytes a, leBytes b, leBytes w] ++ rest) (ha : a &&& 0x80 = 0x80) (hb : b &&& 0x80 = 0) :
    EngineReaches (s.goto .programVolatile 3).settled
      ((s.sramLoaded w).accumulated.finish (s.sramLoaded w).accumulated.fsm.acc) := by
  obtain ⟨t, ht⟩ : ∃ t, t = s.sramLoaded w := ⟨_, rfl⟩
  have hload := engineReaches_callLoadSram (q := .programVolatile) (n := 3) rfl hpos hmax hreplies ha hb
  rw [← ht, State.settled_volatileEnd (by rw [ht]; exact hcallers)] at hload
  rw [← ht]
  exact hload

/-- Settles O29: EraseSRAM's run, LoadSRAM's, and the worst of their returns. -/
theorem volatilePathRun : Obligations.VolatilePathRun := by
  intro s a1 a2 a3 aw b1 b2 bw rest hpc hcallers hlen hchunk hmax hreplies ha1 ha2 ha3 hb1 hb2
  have hscript : (s.eraseTaken aw).xport.replies = [leBytes b1, leBytes b2, leBytes bw] ++ rest :=
    congrArg (List.tail ∘ List.tail ∘ List.tail ∘ List.tail) hreplies
  have hrun := (engineReaches_volatileErased hpc hmax hreplies ha1 ha2 ha3).trans
    (engineReaches_volatileLoaded hcallers (chunks_pos hlen hchunk) hmax hscript hb1 hb2)
  rw [State.eraseTaken_sramLoaded] at hrun
  simp only [State.bothLoaded, State.finish] at hrun
  exact hrun.reaches fun a => by simp

end Sys2Proof.Machine
end

section
/-! PROOFS. RESULT through a step: every step of a running operation does the same whatever RESULT holds, until the one that
ends it, which writes RESULT; and what starts an operation does not end it (R34, R369). -/

namespace Sys2Proof.Machine

/-- The same state with another value in RESULT. -/
def State.withResult (s : State) (r : Option SeqOutcome) : State := { s with result := r }

/-- What a stretch leaves of two states that differ in RESULT alone, `r₀` in one and `r` in the other: it goes on in both, and
they still differ in RESULT alone; or it has ended the host operation in both with the same outcome. -/
inductive SameBut (r₀ r : Option SeqOutcome) (a b : State) : Prop where
  | runs (hpc : a.pc ≠ .idle) (hresult : a.result = r₀) (hb : b = a.withResult r)
  | ended (hpc : a.pc = .idle) (hresult : ∃ o, a.result = some o) (hb : b = a)

section

variable {r₀ r : Option SeqOutcome}

theorem SameBut.ite {p : Prop} [Decidable p] {a a' b b' : State} (ha : SameBut r₀ r a a') (hb : SameBut r₀ r b b') :
    SameBut r₀ r (if p then a else b) (if p then a' else b') := by
  split
  · exact ha
  · exact hb

/-- A return ends the operation with its outcome in RESULT, or goes on. -/
theorem SameBut.ofReturn {u : State} (o : SeqOutcome) (hu : u.result = r₀ := by rfl) :
    SameBut r₀ r (u.returnOutcome o) ((u.withResult r).returnOutcome o) := by
  rcases h : unwind o u.callers with _ | ⟨f, fs⟩
  · rw [State.returnOutcome_finish h, State.returnOutcome_finish (s := u.withResult r) h]
    exact .ended rfl ⟨o, rfl⟩ rfl
  · rw [State.returnOutcome_resume h, State.returnOutcome_resume (s := u.withResult r) h]
    exact .runs nofun hu rfl

/-! Moves (R33). -/

theorem State.countWait_withResult (s : State) : (s.withResult r).countWait = s.countWait.withResult r := by
  simp only [State.countWait_eq]
  rfl

/-- A move reads nothing of RESULT. -/
theorem State.move_sameBut (s : State) (q : Seq) (n : Nat) {c : Ctl} (hc : c ≠ .leave) :
    SameBut s.result r (s.move q n c) ((s.withResult r).move q n c) := by
  have on : ∀ {u : State}, u.pc ≠ .idle → u.result = s.result → SameBut s.result r u (u.withResult r) :=
    fun hpc hu => .runs hpc hu rfl
  cases c with
  | leave => exact absurd rfl hc
  | retOk | retAcc | retRet | replyBytes => exact .ofReturn _
  | retDone want code => exact .ite (.ofReturn _) (.ofReturn _)
  | checksumEnd => exact .ite (.ofReturn _) (.ofReturn _)
  | requireProgrammable => exact .ite (on nofun rfl) (.ofReturn _)
  | pollNext mask value code k => exact .ite (on nofun rfl) (.ite (on nofun rfl) (.ofReturn _))
  | extReturn => exact .ite (.ofReturn _) (.ite (.ofReturn _) (.ofReturn _))
  | chunkNext k | attemptNext k | burstNext k | pageNext k | wordNext k | bitNext k =>
    exact .ite (on nofun rfl) (on nofun rfl)
  | waitNext k =>
    have hcount : s.countWait.result = s.result := by rw [State.countWait_eq]
    simp only [State.move, State.waitNext, State.countWait_withResult]
    exact .ite (.ofReturn _ (by exact hcount)) (.ite (on nofun hcount) (.ofReturn _ (by exact hcount)))
  | callEncoding =>
    have hcall : ∀ u : State, u.var = s.var → u.move q n .callEncoding =
        u.callSeq q (n + 1) true (if s.var.spiEncoding = .encA then .transferA else .transferB) := by
      intro u hu
      simp only [State.move, hu]
      cases s.var.spiEncoding <;> rfl
    rw [hcall s rfl, hcall (s.withResult r) rfl]
    exact on nofun rfl
  | warnVerify =>
    have hwarn : ∀ u : State, u.verifyReq = s.verifyReq → u.move q n .warnVerify =
        if s.verifyReq then (u.warn .verifyUnsupported).goto q (n + 1) else u.goto q (n + 1) := by
      intro u hu
      simp only [State.move, hu]
      split <;> rfl
    rw [hwarn s rfl, hwarn (s.withResult r) rfl]
    exact .ite (on nofun rfl) (on nofun rfl)
  | _ => exact on nofun rfl

/-- Only the sequences that no host operation starts or calls leave without an outcome. -/
def Micro.leavePlaced (q : Seq) : Micro → Bool
  | .ctl .leave => q.depth == 0 && !q.isHostLevel
  | _ => true

theorem rom_leavePlaced (q : Seq) : romAll (fun _ m => m.leavePlaced q) q = true := by
  cases q with
  | single b => rfl
  | _ => decide

theorem ne_leave {q : Seq} {fs : List Frame} {n : Nat} (hchain : chainOk q fs = true) :
    microAt q n ≠ some (.ctl .leave) := by
  intro hm
  have h := romAll_at (rom_leavePlaced q) hm
  simp only [Micro.leavePlaced, Bool.and_eq_true, beq_iff_eq, Bool.not_eq_true'] at h
  obtain ⟨hdepth, hhost⟩ := h
  exact depth_ne_zero_of_chain hchain hhost hdepth

theorem State.moved?_sameBut {s t : State} (hc : s.controlOk = true) (hmv : s.moved? = some t) :
    ∃ t', (s.withResult r).moved? = some t' ∧ SameBut s.result r t t' := by
  obtain ⟨q, n, hpc, ⟨c, hm, rfl⟩ | ⟨d, hm, hzero, rfl⟩⟩ := s.moved?_cases hmv
  · have hne : c ≠ .leave := by
      rintro rfl
      exact ne_leave ((State.controlOk_at hpc).mp hc).2 hm
    have hpc' : (s.withResult r).pc = .at q n := hpc
    exact ⟨_, by simp only [State.moved?, hpc', hm], s.move_sameBut q n hne⟩
  · have hpc' : (s.withResult r).pc = .at q n := hpc
    have hdelay : (s.withResult r).delayUs d = s.delayUs d := by cases d <;> rfl
    have hzero' : clockCount (s.withResult r).xport.freq ((s.withResult r).delayUs d) = 0 := by rw [hdelay]; exact hzero
    refine ⟨(s.withResult r).goto q (n + 1), ?_, .runs nofun rfl rfl⟩
    simp only [State.moved?, hpc', hm, if_pos hzero']

theorem State.rest_withResult {s : State} (hc : s.controlOk = true) (h : s.moved? = none) :
    (s.withResult r).moved? = none := by
  rcases hmv : (s.withResult r).moved? with _ | t
  · rfl
  · obtain ⟨t', hmv', _⟩ := State.moved?_sameBut (s := s.withResult r) (r := s.result) hc hmv
    cases h.symm.trans hmv'

/-- Coming to rest reads nothing of RESULT, and writes it only where the operation ends. -/
theorem State.settled_sameBut {s : State} (hc : s.controlOk = true) (hrun : s.pc ≠ .idle) :
    SameBut s.result r s.settled (s.withResult r).settled := by
  have hmoves : ∀ (k : Nat) (a : State), a.controlOk = true → a.pc ≠ .idle →
      SameBut a.result r (State.settleIn k a) (State.settleIn k (a.withResult r)) := by
    intro k
    induction k with
    | zero => exact fun a _ hpc => .runs hpc rfl rfl
    | succ k ih =>
      intro a hc hpc
      rcases hmv : a.moved? with _ | t
      · rw [State.settleIn_of_rest hmv, State.settleIn_of_rest (State.rest_withResult hc hmv)]
        exact .runs hpc rfl rfl
      · obtain ⟨t', hmv', hsame⟩ := State.moved?_sameBut (r := r) hc hmv
        simp only [State.settleIn, hmv, hmv']
        cases hsame with
        | runs hpc hresult hb =>
          rw [hb, ← hresult]
          exact ih t (State.moved?_controlOk hc hmv) hpc
        | ended hpc hresult hb =>
          rw [hb, State.settleIn_of_rest (State.moved?_idle hpc)]
          exact .ended hpc hresult rfl
  exact hmoves s.moveBound s hc hrun

/-! The engine's steps. -/

/-- A transport operation reads nothing of RESULT. -/
theorem State.perform_withResult {s u : State} {w : Wire} (h : s.perform w = .ok u) :
    u.result = s.result ∧ (s.withResult r).perform w = .ok (u.withResult r) := by
  cases w with
  | clkFor d =>
    cases h
    have hdelay : (s.withResult r).delayUs d = s.delayUs d := by cases d <;> rfl
    rw [State.perform, hdelay, State.clockFor_eq, State.clockFor_eq]
    exact ⟨rfl, rfl⟩
  | chunkShift =>
    rcases s.chunkShift_cases with ⟨_, _, _, e⟩ | ⟨out, hread, e⟩ <;> rw [State.perform, e] at h <;> cases h
    rcases (s.withResult r).chunkShift_cases with ⟨hnone, _⟩ | ⟨out', hread', e'⟩
    · cases hread.symm.trans hnone
    · cases hread.symm.trans hread'
      exact ⟨rfl, e'⟩
  | bscanHigh =>
    cases h
    rcases hrd : s.fsm.spi.rd with _ | _
    · rw [State.perform, State.clockHigh_write hrd, State.clockHigh_write (s := s.withResult r) hrd]
      exact ⟨rfl, rfl⟩
    · rw [State.perform, State.clockHigh_read hrd, State.clockHigh_read (s := s.withResult r) hrd]
      exact ⟨rfl, rfl⟩
  | encBShift =>
    cases h
    have hshift : (s.withResult r).passthroughShift = s.passthroughShift.withResult r := by
      rcases hrd : s.fsm.spi.rd with _ | _ <;>
        simp only [State.passthroughShift, hrd, show (s.withResult r).fsm.spi.rd = _ from hrd] <;> rfl
    refine ⟨?_, congrArg Except.ok hshift⟩
    rw [State.passthroughShift_frame]
  | _ => cases h; exact ⟨rfl, rfl⟩

/-- What a step of a running operation does, whatever RESULT holds: it sets the step pointer at `u`, which comes to rest. -/
structure RestsFrom (s t u : State) : Prop where
  rests : t = u.settled
  control : u.controlOk = true
  running : u.pc ≠ .idle
  result : u.result = s.result
  alike : ∀ r, engineStep (s.withResult r) = .next (u.withResult r).settled

theorem RestsFrom.sameBut {s t u : State} (h : RestsFrom s t u) :
    ∃ t', engineStep (s.withResult r) = .next t' ∧ SameBut s.result r t t' := by
  refine ⟨_, h.alike r, ?_⟩
  rw [h.rests, ← h.result]
  exact State.settled_sameBut h.control h.running

end

/-- A step that leaves the step pointer at rest. -/
theorem RestsFrom.ofRest {s t : State} (hc : t.controlOk = true) (hrun : t.pc ≠ .idle) (hrest : t.moved? = none)
    (hresult : t.result = s.result) (halike : ∀ r, engineStep (s.withResult r) = .next (t.withResult r)) :
    RestsFrom s t t where
  rests := (State.settled_of_rest hrest).symm
  control := hc
  running := hrun
  result := hresult
  alike r := by rw [State.settled_of_rest (State.rest_withResult hc hrest)]; exact halike r

theorem engineStep_spiRequest {s : State} {q : Seq} {n : Nat} {bs left : List Byte} {rest : List ExtInput} {i : Instr}
    (hpc : s.pc = .at q n) (hm : microAt q n = some .algorithm) (hin : s.extIn = .request bs :: rest)
    (hd : decodeSpi bs = .ok (i, left)) : engineStep s = exec i s.popExt := by
  have hdecode : decode s.cfg.op .spi bs = .ok (i, left) := hd
  simp only [engineStep, State.fetch_spi hpc hm hin, hdecode, State.consume_spi]

/-- A request of the external algorithm. -/
theorem spiRequest_restsFrom {s t : State} {bs left : List Byte} {rest : List ExtInput} {i : Instr}
    (hc : s.controlOk = true) (hpc : s.pc = .at .externalFlash algorithmStep) (hin : s.extIn = .request bs :: rest)
    (hd : decodeSpi bs = .ok (i, left)) (ht : exec i s.popExt = .next t) : ∃ u, RestsFrom s t u := by
  have hrun : s.pc ≠ .idle := by rw [hpc]; nofun
  have hrest : ∀ {u : State}, u.pc = s.pc → u.moved? = none := fun hu => State.moved?_algorithm (hu.trans hpc) rfl
  have hstep : ∀ r, engineStep (s.withResult r) = exec i (s.withResult r).popExt := fun r =>
    engineStep_spiRequest (s := s.withResult r) hpc rfl hin hd
  have hport := decodeSpi_port hd
  cases i with
  | transfer c tx rl =>
    rcases execTransfer_cases c tx rl s.popExt with ⟨hno, e⟩ | ⟨hyes, e⟩ <;> rw [exec, e] at ht <;> cases ht
    · refine ⟨_, .ofRest hc hrun (hrest rfl) rfl fun r => (hstep r).trans ?_⟩
      simp only [exec, execTransfer, hno, if_true]
      rfl
    · refine ⟨_, rfl, Enters.controlOk hc (.spi .spiTransfer rfl hpc rfl rfl rfl), nofun, rfl, fun r => (hstep r).trans ?_⟩
      simp only [exec, execTransfer, hyes, Bool.false_eq_true, if_false]
      rfl
  | waitUntil c m x b v =>
    rcases execWaitUntil_cases c m x b v s.popExt with ⟨hno, e⟩ | ⟨hyes, e⟩ <;> rw [exec, e] at ht <;> cases ht
    · refine ⟨_, .ofRest hc hrun (hrest rfl) rfl fun r => (hstep r).trans ?_⟩
      simp only [exec, execWaitUntil, hno, if_true]
      rfl
    · refine ⟨_, rfl, Enters.controlOk hc (.spi .spiWait rfl hpc rfl rfl rfl), nofun, rfl, fun r => (hstep r).trans ?_⟩
      simp only [exec, execWaitUntil, hyes, if_false]
      rfl
  | _ => cases hport

/-- Every step of a running operation does the same whatever RESULT holds. -/
theorem EngineTo.restsFrom {s t : State} (hc : s.controlOk = true) (hrun : s.pc ≠ .idle) (h : EngineTo s t) :
    ∃ u, RestsFrom s t u := by
  have hcontrol := (h.comesToRest hc).controlOk hc
  cases h with
  | hostWrite _ _ hpc | hostRequest _ _ _ _ hpc => exact absurd hpc hrun
  | waits hF ht =>
    subst ht
    refine ⟨t, .ofRest hc hrun (State.moved?_waiting hF) rfl fun r => ?_⟩
    have hF' : (t.withResult r).fetch = .waiting := hF
    simp only [engineStep, hF']
  | command q n c hpc hm ht =>
    subst ht
    rcases hm with hm | ⟨b, hm, _⟩
    · exact ⟨_, .ofRest hcontrol nofun (State.moved?_latch rfl (latch_after_cmd hm)) rfl fun r =>
        engineStep_cmd (s := s.withResult r) hpc hm⟩
    · exact absurd hm (ne_cmdByte ((State.controlOk_at hpc).mp hc).2)
  | latch q n hpc hm ht =>
    have hnext : s.latchCommand.pc.next = .at q (n + 1) := congrArg Pc.next hpc
    have henters : Enters s { s.latchCommand with pc := s.latchCommand.pc.next } :=
      .passes q n _ hpc hm nofun hnext rfl (.inr ⟨nofun, rfl⟩)
    exact ⟨_, ht, henters.controlOk hc, by rw [hnext]; nofun, rfl, fun r => engineStep_latch (s := s.withResult r) hpc hm⟩
  | wire q n w u hpc hm hu ht =>
    have hnext : u.pc.next = .at q (n + 1) := congrArg Pc.next ((State.perform_control hu).1.trans hpc)
    have hcontrol' := (State.perform_runsOn hc hpc hm hu).enters.controlOk hc
    refine ⟨_, ht, hcontrol', by rw [hnext]; nofun, ?_, fun r => ?_⟩
    · exact (State.perform_withResult (r := none) hu).1
    · exact engineStep_wire (s := s.withResult r) hpc hm (State.perform_withResult hu).2
  | spiRequest q n _ _ _ _ hpc hm hin hd ht =>
    obtain ⟨rfl, rfl⟩ := eq_of_algorithm hm
    exact spiRequest_restsFrom hc hpc hin hd ht
  | algorithmEnd q n ok rest hpc hm hin ht =>
    have henters : Enters s { s.popExt with fsm := { s.fsm with algoOk := ok }, pc := s.pc.next } :=
      .passes q n _ hpc hm nofun (congrArg Pc.next hpc) rfl (.inr ⟨nofun, rfl⟩)
    refine ⟨_, ht, henters.controlOk hc, ?_, rfl, fun r => ?_⟩
    · rw [show (s.popExt.pc.next = _) from congrArg Pc.next hpc]
      nofun
    · have hF : (s.withResult r).fetch = .algorithmEnd ok := by
        simp only [State.fetch, State.withResult, hpc, hm, hin, fetchExt]
      simp only [engineStep, hF]
      rfl
  | unsettled q n c hpc hm ht =>
    refine ⟨s, ht, hc, hrun, rfl, fun r => ?_⟩
    have hF : (s.withResult r).fetch = .unsettled := by simp only [State.fetch, State.withResult, hpc, hm]
    simp only [engineStep, hF]

/-! The machine's steps. -/

theorem pathOf_cases (m : ProgMode) (ext : Bool) :
    pathOf m ext = .programVolatile ∨ pathOf m ext = .programFlash ∨ pathOf m ext = .externalFlash := by
  cases m <;> cases ext <;> decide

/-- A step of the engine while IDLE changes RESULT only by a ConfigError: a sequence that starts does not end in the same
step (R361). -/
theorem EngineTo.result_of_idle {s t : State} (hidle : s.pc = .idle) (h : EngineTo s t) : t.result = s.result ∨
    t.pc = .idle ∧ ∃ bs rest left o u c, s.hostIn = .request bs :: rest ∧
      decode s.cfg.op .host bs = .ok (.program o u, left) ∧ t.result = some (.fatal c 0) := by
  cases h with
  | waits _ ht => exact .inl (by rw [ht])
  | hostWrite w _ _ _ _ ht =>
    rw [ht]
    cases w with
    | setMcuImg im => cases im <;> exact .inl rfl
    | _ => exact .inl rfl
  | hostRequest bs rest i left _ hin hd ht =>
    have hport := decodeHost_port hd
    cases i with
    | program o u =>
      rcases execProgram_cases o u s.popHost with ⟨_, e⟩ | ⟨m, _, ⟨c, _, e⟩ | ⟨_, e⟩⟩ <;> rw [exec, e] at ht <;> cases ht
      · exact .inl rfl
      · exact .inr ⟨rfl, bs, rest, left, o, u, c, hin, hd, rfl⟩
      · refine .inl ?_
        rcases pathOf_cases m (s.popHost.latchProgram o u).extSel with h | h | h <;> rw [h]
        · rw [State.start_programVolatile]
          rfl
        · rw [State.start_programFlash]
          rfl
        · rw [State.start_externalFlash]
          rfl
    | reset =>
      cases ht
      rw [State.start_of_cmd (c := .reload) rfl]
      exact .inl rfl
    | readIdCode =>
      cases ht
      rw [State.start_of_cmd (c := .readIdcode) rfl]
      exact .inl rfl
    | readStatusRegister =>
      cases ht
      rw [State.start_of_cmd (c := .readStatus) rfl]
      exact .inl rfl
    | _ => cases hport
  | command _ _ _ hpc | latch _ _ hpc | wire _ _ _ _ hpc | spiRequest _ _ _ _ _ _ hpc | algorithmEnd _ _ _ _ hpc
  | unsettled _ _ _ hpc => cases hidle.symm.trans hpc

/-- Settles O58: while IDLE only a ConfigError changes RESULT; a running operation's step does the same whatever RESULT holds,
and changes it only where it ends. -/
theorem resultAtEnd : Obligations.ResultAtEnd := by
  intro s t hc h
  rcases step_next h with ⟨_, rfl⟩ | ⟨hturn, he⟩
  · exact ⟨fun hne => absurd rfl hne, fun hrun hend => absurd hend hrun⟩
  · by_cases hidle : s.pc = .idle
    · refine ⟨fun hne => ?_, fun hrun => absurd hidle hrun⟩
      obtain ⟨hend, hconfig⟩ := (he.result_of_idle hidle).resolve_left hne
      exact ⟨hend, fun _ => hconfig⟩
    · obtain ⟨u, hu⟩ := he.restsFrom hc hidle
      obtain ⟨t', _, hsame⟩ := hu.sameBut (r := none)
      refine ⟨fun hne => ⟨?_, fun hi => absurd hi hidle⟩, fun _ hend => ⟨?_, fun r => ?_⟩⟩
      · cases hsame with
        | runs _ hresult => exact absurd hresult hne
        | ended hpc => exact hpc
      · cases hsame with
        | runs hpc => exact absurd hend hpc
        | ended _ hresult => exact hresult
      · obtain ⟨t', hstep, hsame⟩ := hu.sameBut (r := r)
        cases hsame with
        | runs hpc => exact absurd hend hpc
        | ended _ _ hb => exact (step_of_engine (s := s.withResult r) hturn).trans (hb ▸ hstep)

end Sys2Proof.Machine
end
